-- ==== Sys2Proof/Word.lean ====
section
/-! DEFINITION. Bytes and byte strings: the only words of the LowNet frame block (spec 00_scope.md R13). -/

namespace Sys2Proof

/-- A byte is 8 bits, bit 0 the least significant (R13). -/
abbrev Byte := BitVec 8

/-- A byte string of exactly `n` bytes: `list[0]` is the byte transmitted and stored first (R13, R40).
The length is part of the type, so an operand of another size cannot be written (R81). -/
structure Bytes (n : Nat) where
  list : List Byte
  len : list.length = n
  deriving DecidableEq, Repr

/-- `zeros(n)`: `n` bytes of 00 (R13). -/
def zeros (n : Nat) : List Byte := List.replicate n 0#8

/-- The `n`-byte string of zeros, with its length. -/
def Bytes.zero (n : Nat) : Bytes n := ⟨zeros n, by simp [zeros]⟩

/-- Byte `i` of a byte string, `B[i]` of R13; 00 past its end (no rule reads there, R48). -/
def byteAt (bs : List Byte) (i : Nat) : Byte := bs.getD i 0#8

/-- Byte `i` of a buffer of known size. -/
def Bytes.at {n : Nat} (B : Bytes n) (i : Nat) : Byte := byteAt B.list i

end Sys2Proof
end

