-- ==== Sys2Proof/Config.lean ====
section
/-! DEFINITION. The implementation parameters of spec 00_scope.md R7 and R8 as one record, and the OPEN parameters, for which
the spec gives no value, as opaque constants without a body. -/

namespace Sys2Proof

/-- `FRAME_SIZE` (R7). -/
abbrev frameSize : Nat := 212
/-- `IVT_SIZE` and `BLOCK_SIZE` (R7, R8). -/
abbrev ivtSize : Nat := 16
/-- `BROADCAST` (R7). -/
abbrev broadcast : Byte := 0xFF#8
/-- `PING_PACKET_SIZE` (R8, R68). -/
abbrev pingPacketSize : Nat := 11
/-- `KEYSTORE_SLOTS` (R7). -/
abbrev keystoreSlots : Nat := 2

/-- A time value (30_encoding.md R69): `seconds` 32 bits, `parts` 8 bits of 1/256 second each. -/
structure TimeValue where
  seconds : BitVec 32
  parts : BitVec 8
  deriving DecidableEq, Repr

/-- `CRC_PARAMS` of R8 and R93, a CRC of `width` bits. The two bounds are R9's constraint `1 <= width <= 32`. -/
structure CrcParams where
  width : Nat
  poly : BitVec width
  init : BitVec width
  refin : Bool
  refout : Bool
  xorout : BitVec width
  width_pos : 1 ≤ width
  width_le : width ≤ 32
  deriving DecidableEq, Repr

/-- The decided default of `CRC_PARAMS`, CRC-32/ISO-HDLC (R8, R94). -/
def CrcParams.isoHdlc : CrcParams where
  width := 32
  poly := 0x04C11DB7#32
  init := 0xFFFFFFFF#32
  refin := true
  refout := true
  xorout := 0xFFFFFFFF#32
  width_pos := by decide
  width_le := by decide

/-- `CRC_FIELD_ORDER` (R8, R41). -/
inductive ByteOrder where
  | little
  | big
  deriving DecidableEq, Repr

/-- `KEY_SIZE`, one of 16, 24 and 32 bytes (R8, R9); the name counts bits as R130 does. -/
inductive KeySize where
  | aes128
  | aes192
  | aes256
  deriving DecidableEq, Repr

/-- `KEY_SIZE` in bytes (R130). -/
def KeySize.bytes : KeySize → Nat
  | .aes128 => 16
  | .aes192 => 24
  | .aes256 => 32

/-- `Nk = KEY_SIZE / 4`, the key's 32-bit words (R130). -/
def KeySize.nk : KeySize → Nat
  | .aes128 => 4
  | .aes192 => 6
  | .aes256 => 8

/-- `Nr = Nk + 6`, the cipher's rounds (R130). -/
def KeySize.nr (k : KeySize) : Nat := k.nk + 6

/-- A key record (30_encoding.md R75): "a byte sequence plus declared bit-length". -/
structure KeyRecord where
  bytes : List Byte
  bits : Nat
  deriving DecidableEq, Repr

/-- The record for a byte sequence, with `bits = 8 * len(bytes)` (R75). -/
def KeyRecord.ofBytes (bs : List Byte) : KeyRecord := ⟨bs, 8 * bs.length⟩

/-- The parameters of R8 that an implementation or the surrounding system supplies, one record. No operation writes any of
them (10_state.md R21). The parameters R8 calls `decided` and not overridable are constants of the model instead. -/
structure Config where
  /-- `MAGIC` (OPEN). -/
  magic : Bytes 2
  /-- `CRC_PARAMS` (decided, overridable). -/
  crc : CrcParams
  /-- `CRC_FIELD_ORDER` (decided, overridable). -/
  crcOrder : ByteOrder
  /-- `KEY_SIZE` (decided, overridable). -/
  keySize : KeySize
  /-- `NODE_ADDR` (OPEN, an input), constant for the life of the block (R21). -/
  nodeAddr : Byte
  /-- `KEYSTORE(0)` (OPEN, an input). -/
  keystore0 : KeyRecord
  /-- `KEYSTORE(1)` (OPEN, an input). -/
  keystore1 : KeyRecord
  /-- `KEY_CMD_WORD` (OPEN, R195). -/
  keyWord : List Byte
  /-- `KEY_CLEAR_CMD_WORD` (OPEN, R195). -/
  keyClearWord : List Byte
  /-- `SELFTEST_CMD_WORD` (OPEN, R196). -/
  selftestWord : List Byte
  deriving DecidableEq, Repr

/-- The first byte of `MAGIC`; no source gives a value (R8, D6). -/
opaque Config.openMagic0 : Byte
/-- The second byte of `MAGIC`. -/
opaque Config.openMagic1 : Byte
/-- `NODE_ADDR`: whatever `current_device_address()` answers (R11, R21). -/
opaque Config.openNodeAddr : Byte
/-- The byte sequence of `KEYSTORE(i)`: whatever `keystore_lookup(i)` answers (R11, R21). -/
opaque Config.openKeystore : Nat → List Byte
/-- The three command words no source gives: 0 `KEY_CMD_WORD`, 1 `KEY_CLEAR_CMD_WORD`, 2 `SELFTEST_CMD_WORD` (R8, D33). -/
opaque Config.openCommandWord : Nat → List Byte
/-- `NOW.seconds` before the first request: whatever `current_time()` answers (R21, R176). -/
opaque Config.openClockSeconds : BitVec 32
/-- `NOW.parts` before the first request. -/
opaque Config.openClockParts : BitVec 8

/-- The record a block starts with: every decided default of R8, every OPEN parameter an opaque constant (log entry 2). -/
def Config.initial : Config where
  magic := ⟨[Config.openMagic0, Config.openMagic1], rfl⟩
  crc := CrcParams.isoHdlc
  crcOrder := .little
  keySize := .aes256
  nodeAddr := Config.openNodeAddr
  keystore0 := KeyRecord.ofBytes (Config.openKeystore 0)
  keystore1 := KeyRecord.ofBytes (Config.openKeystore 1)
  keyWord := Config.openCommandWord 0
  keyClearWord := Config.openCommandWord 1
  selftestWord := Config.openCommandWord 2

end Sys2Proof
end

