-- ==== Sys2Proof/Syntax.lean ====
section
/-! DEFINITION. The instructions: one constructor for each row of spec/opcode_table.json. The 19 rows of format `OP` are the
block's operations (30_encoding.md R80, operands R81); the 20 rows of formats `PROTO_F` and `PROTO_S` are the protocol-id map
(R70, R83), whose instruction word is the frame itself and whose opcode is the frame's `protocol` byte (00_scope.md R2). -/

namespace Sys2Proof

/-- The two byte layouts: `F` the plain frame (R60), `S` the secure frame (R63). -/
inductive Layout where
  | F
  | S
  deriving DecidableEq, Repr

/-- A frame operand: exactly 212 bytes (R40, R81). -/
abbrev Frame := Bytes frameSize
/-- An `iv` operand: exactly 16 bytes (R81). -/
abbrev Iv := Bytes ivtSize

/-- One constructor per row of the opcode table. A `proto…` instruction is a frame handed to the dispatcher, with the `iv` of
the ping response it may send; its row is fixed by the byte at offset 4 (`F`) or 20 (`S`). -/
inductive Instr where
  | protoReservedF (B : Frame) (iv : Iv)
  | protoTimeF (B : Frame) (iv : Iv)
  | protoChatF (B : Frame) (iv : Iv)
  | protoPingF (B : Frame) (iv : Iv)
  | protoUnrecognized04F (B : Frame) (iv : Iv)
  | protoUnrecognized08F (B : Frame) (iv : Iv)
  | protoUnrecognized10F (B : Frame) (iv : Iv)
  | protoUnrecognized20F (B : Frame) (iv : Iv)
  | protoUnrecognized40F (B : Frame) (iv : Iv)
  | protoUnrecognized80F (B : Frame) (iv : Iv)
  | protoReservedS (B : Frame) (iv : Iv)
  | protoTimeS (B : Frame) (iv : Iv)
  | protoChatS (B : Frame) (iv : Iv)
  | protoPingS (B : Frame) (iv : Iv)
  | protoUnrecognized04S (B : Frame) (iv : Iv)
  | protoUnrecognized08S (B : Frame) (iv : Iv)
  | protoUnrecognized10S (B : Frame) (iv : Iv)
  | protoUnrecognized20S (B : Frame) (iv : Iv)
  | protoUnrecognized40S (B : Frame) (iv : Iv)
  | protoUnrecognized80S (B : Frame) (iv : Iv)
  | frameClear
  | frameBuild (L : Layout) (src dst proto : Byte) (msg : List Byte) (iv : Iv)
  | frameValidate (L : Layout) (B : Frame)
  | crcGen (B : Frame)
  | crcCheck (B : Frame)
  | keySetLiteral (lit : List Byte)
  | keySetIndex (idx : Byte)
  | keyClear
  | encrypt (P : Frame)
  | decrypt (C : Frame)
  | selftest
  | dispatch (L : Layout) (B : Frame) (iv : Iv)
  | chatRx (L : Layout) (B : Frame)
  | pingRx (L : Layout) (B : Frame) (iv : Iv)
  | rxFrame (W : Frame) (iv : Iv)
  | txFrame (src dst proto : Byte) (msg : List Byte) (iv : Iv)
  | shout (msg : List Byte) (iv : Iv)
  | tell (msg : List Byte) (dst : Byte) (iv : Iv)
  | pingSend (target : Byte) (iv : Iv)
  deriving DecidableEq, Repr

/-- The `format` column of the opcode table. An instruction word belongs to one of the three; the same eight bits may be a
word of all three, so a decoder is told which one it reads. -/
inductive Format where
  | protoF
  | protoS
  | op
  deriving DecidableEq, Repr

/-- Why the decoder rejects a word. -/
inductive DecodeError where
  /-- No byte at all where a selector byte is expected. -/
  | noSelector
  /-- The selector byte names no operation (R82); carries the byte. -/
  | unassignedSelector (sel : Byte)
  /-- The operand bytes are not the operands of this selector (R81, 93 U16); carries the selector byte. -/
  | operandShape (sel : Byte)
  /-- A word of format `PROTO_F` or `PROTO_S` that is not a 212-byte frame and a 16-byte `iv` (R81, 93 U16). -/
  | frameShape
  deriving DecidableEq, Repr

/-- One row of the opcode table: its format, and match and mask over the opcode byte (R83). -/
structure Row where
  format : Format
  pattern : Byte
  mask : Byte
  deriving DecidableEq, Repr

/-- The ten classes of the `protocol` byte (R70, R83), one per row of `PROTO_F` and of `PROTO_S`. -/
inductive ProtoClass where
  | reserved
  | time
  | chat
  | ping
  | unrecognized04
  | unrecognized08
  | unrecognized10
  | unrecognized20
  | unrecognized40
  | unrecognized80
  deriving DecidableEq, Repr

/-- What one line of the command surface asks for (45_command_surface.md R190 to R196). -/
inductive Command where
  /-- The empty line: nothing happens (R190). -/
  | nothing
  /-- One operation of the block. -/
  | op (i : Instr)
  /-- `/help` (R194). -/
  | help
  /-- `/date` (R194). -/
  | date
  /-- A recognised command with a missing or malformed argument (R191, R192, R195, R197). -/
  | malformed
  deriving DecidableEq, Repr

end Sys2Proof
end

