-- ==== Sys2Proof/WellFormed.lean ====
section
/-! DEFINITION. Well-formed instructions: an instruction of a `PROTO` row carries a frame whose `protocol` byte is in that row
(30_encoding.md R70, R83). Every other operand is right by its type (R81). -/

namespace Sys2Proof

/-- The offset of the `protocol` byte, the opcode of formats `PROTO_F` and `PROTO_S` (R60, R63, R83). -/
def Layout.protocolOffset : Layout → Nat
  | .F => 4
  | .S => 20

/-- The `protocol` byte of a frame under a layout. -/
def protocolByte (L : Layout) (B : Frame) : Byte := B.at L.protocolOffset

/-- `p` is in the table row with this match and mask (R83). -/
def rowMatches (pattern mask p : Byte) : Bool := p &&& mask == pattern

/-- The match and the mask of each class of the `protocol` byte (R83). -/
def ProtoClass.pattern : ProtoClass → Byte
  | .reserved => 0x00#8
  | .time => 0x01#8
  | .chat => 0x02#8
  | .ping => 0x03#8
  | .unrecognized04 => 0x04#8
  | .unrecognized08 => 0x08#8
  | .unrecognized10 => 0x10#8
  | .unrecognized20 => 0x20#8
  | .unrecognized40 => 0x40#8
  | .unrecognized80 => 0x80#8

/-- The mask beside `ProtoClass.pattern`. -/
def ProtoClass.mask : ProtoClass → Byte
  | .reserved => 0xFF#8
  | .time => 0xFF#8
  | .chat => 0xFF#8
  | .ping => 0xFF#8
  | .unrecognized04 => 0xFC#8
  | .unrecognized08 => 0xF8#8
  | .unrecognized10 => 0xF0#8
  | .unrecognized20 => 0xE0#8
  | .unrecognized40 => 0xC0#8
  | .unrecognized80 => 0x80#8

/-- The frame's `protocol` byte under `L` is one of class `c`. -/
def inClass (L : Layout) (c : ProtoClass) (B : Frame) : Bool := rowMatches c.pattern c.mask (protocolByte L B)

/-- The check: a `proto…` instruction's frame is one of its row. -/
def Instr.wf : Instr → Bool
  | .protoReservedF B _ => inClass .F .reserved B
  | .protoTimeF B _ => inClass .F .time B
  | .protoChatF B _ => inClass .F .chat B
  | .protoPingF B _ => inClass .F .ping B
  | .protoUnrecognized04F B _ => inClass .F .unrecognized04 B
  | .protoUnrecognized08F B _ => inClass .F .unrecognized08 B
  | .protoUnrecognized10F B _ => inClass .F .unrecognized10 B
  | .protoUnrecognized20F B _ => inClass .F .unrecognized20 B
  | .protoUnrecognized40F B _ => inClass .F .unrecognized40 B
  | .protoUnrecognized80F B _ => inClass .F .unrecognized80 B
  | .protoReservedS B _ => inClass .S .reserved B
  | .protoTimeS B _ => inClass .S .time B
  | .protoChatS B _ => inClass .S .chat B
  | .protoPingS B _ => inClass .S .ping B
  | .protoUnrecognized04S B _ => inClass .S .unrecognized04 B
  | .protoUnrecognized08S B _ => inClass .S .unrecognized08 B
  | .protoUnrecognized10S B _ => inClass .S .unrecognized10 B
  | .protoUnrecognized20S B _ => inClass .S .unrecognized20 B
  | .protoUnrecognized40S B _ => inClass .S .unrecognized40 B
  | .protoUnrecognized80S B _ => inClass .S .unrecognized80 B
  | .frameClear => true
  | .frameBuild _ _ _ _ _ _ => true
  | .frameValidate _ _ => true
  | .crcGen _ => true
  | .crcCheck _ => true
  | .keySetLiteral _ => true
  | .keySetIndex _ => true
  | .keyClear => true
  | .encrypt _ => true
  | .decrypt _ => true
  | .selftest => true
  | .dispatch _ _ _ => true
  | .chatRx _ _ => true
  | .pingRx _ _ _ => true
  | .rxFrame _ _ => true
  | .txFrame _ _ _ _ _ => true
  | .shout _ _ => true
  | .tell _ _ _ => true
  | .pingSend _ _ => true

/-- A well-formed instruction. -/
abbrev Instr.WellFormed (i : Instr) : Prop := i.wf = true

end Sys2Proof
end

