-- ==== Sys2Proof/Decode.lean ====
section
/-! DEFINITION. The decoder, total on any bytes and rejecting by name, and after it the encoder, both written from
30_encoding.md R70, R80, R81, R83 and spec/opcode_table.json. A word of format `OP` is "the selector byte followed by the
operands" in the order of R80's table (95_test_vectors.md, Part 3); a word of format `PROTO_F` or `PROTO_S` is the frame
followed by the `iv` of R150. How operands lie on the command port is the model's choice (DESIGN CHOICE,
log entry 3). -/

namespace Sys2Proof

/-! ## Taking operands off a byte string -/

/-- The first `n` bytes and the rest, if there are `n`. -/
def takeBytes (n : Nat) (bs : List Byte) : Option (Bytes n × List Byte) :=
  if h : (bs.take n).length = n then some (⟨bs.take n, h⟩, bs.drop n) else none

/-- The byte string without its last `n` bytes, and those `n` bytes, if there are `n`. -/
def splitLast (n : Nat) (bs : List Byte) : Option (List Byte × Bytes n) :=
  if h : (bs.drop (bs.length - n)).length = n then some (bs.take (bs.length - n), ⟨bs.drop (bs.length - n), h⟩) else none

/-- A value read by `takeBytes`, if nothing is left after it. -/
def whole {α : Type} : Option (α × List Byte) → Option α
  | some (a, []) => some a
  | _ => none

/-- One byte and the rest. -/
def takeByte : List Byte → Option (Byte × List Byte)
  | b :: r => some (b, r)
  | [] => none

/-- A layout operand, one bit in a byte: 0 is `F`, 1 is `S` (R81). -/
def takeLayout : List Byte → Option (Layout × List Byte)
  | b :: r => if b = 0x00#8 then some (.F, r) else if b = 0x01#8 then some (.S, r) else none
  | [] => none

/-! ## The protocol-id map -/

/-- The classes of the `protocol` byte in the table's order (R83). -/
def protoClasses : List ProtoClass :=
  [.reserved, .time, .chat, .ping, .unrecognized04, .unrecognized08, .unrecognized10, .unrecognized20, .unrecognized40,
    .unrecognized80]

/-- The class of a `protocol` byte: the table row whose match and mask it meets. -/
def classOf (p : Byte) : Option ProtoClass := protoClasses.find? fun c => rowMatches c.pattern c.mask p

/-- The instruction of a class under a layout. -/
def protoInstr : Layout → ProtoClass → Frame → Iv → Instr
  | .F, .reserved => .protoReservedF
  | .F, .time => .protoTimeF
  | .F, .chat => .protoChatF
  | .F, .ping => .protoPingF
  | .F, .unrecognized04 => .protoUnrecognized04F
  | .F, .unrecognized08 => .protoUnrecognized08F
  | .F, .unrecognized10 => .protoUnrecognized10F
  | .F, .unrecognized20 => .protoUnrecognized20F
  | .F, .unrecognized40 => .protoUnrecognized40F
  | .F, .unrecognized80 => .protoUnrecognized80F
  | .S, .reserved => .protoReservedS
  | .S, .time => .protoTimeS
  | .S, .chat => .protoChatS
  | .S, .ping => .protoPingS
  | .S, .unrecognized04 => .protoUnrecognized04S
  | .S, .unrecognized08 => .protoUnrecognized08S
  | .S, .unrecognized10 => .protoUnrecognized10S
  | .S, .unrecognized20 => .protoUnrecognized20S
  | .S, .unrecognized40 => .protoUnrecognized40S
  | .S, .unrecognized80 => .protoUnrecognized80S

/-- A frame and an `iv`, nothing after them. -/
def takeFrameIv (bs : List Byte) : Option (Frame × Iv) := do
  let (B, r) ← takeBytes frameSize bs
  let iv ← whole (takeBytes ivtSize r)
  return (B, iv)

/-- A word of format `PROTO_F` or `PROTO_S` (R70, R83). -/
def decodeProto (L : Layout) (bs : List Byte) : Except DecodeError Instr :=
  match takeFrameIv bs with
  | none => .error .frameShape
  | some (B, iv) =>
    match classOf (protocolByte L B) with
    | none => .error .frameShape
    | some c => .ok (protoInstr L c B iv)

/-! ## The operations -/

/-- `FRAME_BUILD`: `L`, `src`, `dst`, `proto`, `msg`, `iv`. -/
def takeFrameBuild (bs : List Byte) : Option Instr := do
  let (L, r) ← takeLayout bs
  let (src, r) ← takeByte r
  let (dst, r) ← takeByte r
  let (proto, r) ← takeByte r
  let (msg, iv) ← splitLast ivtSize r
  return .frameBuild L src dst proto msg iv

/-- `TX_FRAME`: `src`, `dst`, `proto`, `msg`, `iv`. -/
def takeTxFrame (bs : List Byte) : Option Instr := do
  let (src, r) ← takeByte bs
  let (dst, r) ← takeByte r
  let (proto, r) ← takeByte r
  let (msg, iv) ← splitLast ivtSize r
  return .txFrame src dst proto msg iv

/-- `TELL`: `msg`, `dst`, `iv`; the seventeen last bytes are `dst` and `iv`. -/
def takeTell (bs : List Byte) : Option Instr := do
  let (r, iv) ← splitLast ivtSize bs
  let (msg, d) ← splitLast 1 r
  return .tell msg (d.at 0) iv

/-- The operands of a selector (R80, R81); `none` where the bytes are not such operands, or the selector is unassigned. -/
def takeOperands (sel : Byte) (bs : List Byte) : Option Instr :=
  match sel.toNat with
  | 0x00 => if bs = [] then some .frameClear else none
  | 0x01 => takeFrameBuild bs
  | 0x02 => do
    let (L, r) ← takeLayout bs
    let B ← whole (takeBytes frameSize r)
    return .frameValidate L B
  | 0x03 => (whole (takeBytes frameSize bs)).map .crcGen
  | 0x04 => (whole (takeBytes frameSize bs)).map .crcCheck
  | 0x05 => some (.keySetLiteral bs)
  | 0x06 => (whole (takeByte bs)).map .keySetIndex
  | 0x07 => if bs = [] then some .keyClear else none
  | 0x08 => (whole (takeBytes frameSize bs)).map .encrypt
  | 0x09 => (whole (takeBytes frameSize bs)).map .decrypt
  | 0x0A => if bs = [] then some .selftest else none
  | 0x0B => do
    let (L, r) ← takeLayout bs
    let (B, iv) ← takeFrameIv r
    return .dispatch L B iv
  | 0x0C => do
    let (L, r) ← takeLayout bs
    let B ← whole (takeBytes frameSize r)
    return .chatRx L B
  | 0x0D => do
    let (L, r) ← takeLayout bs
    let (B, iv) ← takeFrameIv r
    return .pingRx L B iv
  | 0x0E => (takeFrameIv bs).map fun x => .rxFrame x.1 x.2
  | 0x0F => takeTxFrame bs
  | 0x10 => (splitLast ivtSize bs).map fun x => .shout x.1 x.2
  | 0x11 => takeTell bs
  | 0x12 => do
    let (target, r) ← takeByte bs
    let iv ← whole (takeBytes ivtSize r)
    return .pingSend target iv
  | _ => none

/-- The first selector value of R80 that names no operation. -/
def firstUnassigned : Nat := 0x13

/-- A word of format `OP`. -/
def decodeOp : List Byte → Except DecodeError Instr
  | [] => .error .noSelector
  | sel :: bs =>
    if firstUnassigned ≤ sel.toNat then .error (.unassignedSelector sel)
    else
      match takeOperands sel bs with
      | some i => .ok i
      | none => .error (.operandShape sel)

/-- The decoder: the instruction a word of the given format stands for. -/
def decode : Format → List Byte → Except DecodeError Instr
  | .op, bs => decodeOp bs
  | .protoF, bs => decodeProto .F bs
  | .protoS, bs => decodeProto .S bs

/-! ## The encoder -/

/-- A layout operand. -/
def encodeLayout : Layout → Byte
  | .F => 0x00#8
  | .S => 0x01#8

/-- A word of format `PROTO_F` or `PROTO_S`. -/
def encodeProto (B : Frame) (iv : Iv) : List Byte := B.list ++ iv.list

/-- The word of an instruction and its format. -/
def encode : Instr → Format × List Byte
  | .protoReservedF B iv => (.protoF, encodeProto B iv)
  | .protoTimeF B iv => (.protoF, encodeProto B iv)
  | .protoChatF B iv => (.protoF, encodeProto B iv)
  | .protoPingF B iv => (.protoF, encodeProto B iv)
  | .protoUnrecognized04F B iv => (.protoF, encodeProto B iv)
  | .protoUnrecognized08F B iv => (.protoF, encodeProto B iv)
  | .protoUnrecognized10F B iv => (.protoF, encodeProto B iv)
  | .protoUnrecognized20F B iv => (.protoF, encodeProto B iv)
  | .protoUnrecognized40F B iv => (.protoF, encodeProto B iv)
  | .protoUnrecognized80F B iv => (.protoF, encodeProto B iv)
  | .protoReservedS B iv => (.protoS, encodeProto B iv)
  | .protoTimeS B iv => (.protoS, encodeProto B iv)
  | .protoChatS B iv => (.protoS, encodeProto B iv)
  | .protoPingS B iv => (.protoS, encodeProto B iv)
  | .protoUnrecognized04S B iv => (.protoS, encodeProto B iv)
  | .protoUnrecognized08S B iv => (.protoS, encodeProto B iv)
  | .protoUnrecognized10S B iv => (.protoS, encodeProto B iv)
  | .protoUnrecognized20S B iv => (.protoS, encodeProto B iv)
  | .protoUnrecognized40S B iv => (.protoS, encodeProto B iv)
  | .protoUnrecognized80S B iv => (.protoS, encodeProto B iv)
  | .frameClear => (.op, [0x00#8])
  | .frameBuild L src dst proto msg iv => (.op, 0x01#8 :: encodeLayout L :: src :: dst :: proto :: (msg ++ iv.list))
  | .frameValidate L B => (.op, 0x02#8 :: encodeLayout L :: B.list)
  | .crcGen B => (.op, 0x03#8 :: B.list)
  | .crcCheck B => (.op, 0x04#8 :: B.list)
  | .keySetLiteral lit => (.op, 0x05#8 :: lit)
  | .keySetIndex idx => (.op, [0x06#8, idx])
  | .keyClear => (.op, [0x07#8])
  | .encrypt P => (.op, 0x08#8 :: P.list)
  | .decrypt C => (.op, 0x09#8 :: C.list)
  | .selftest => (.op, [0x0A#8])
  | .dispatch L B iv => (.op, 0x0B#8 :: encodeLayout L :: (B.list ++ iv.list))
  | .chatRx L B => (.op, 0x0C#8 :: encodeLayout L :: B.list)
  | .pingRx L B iv => (.op, 0x0D#8 :: encodeLayout L :: (B.list ++ iv.list))
  | .rxFrame W iv => (.op, 0x0E#8 :: (W.list ++ iv.list))
  | .txFrame src dst proto msg iv => (.op, 0x0F#8 :: src :: dst :: proto :: (msg ++ iv.list))
  | .shout msg iv => (.op, 0x10#8 :: (msg ++ iv.list))
  | .tell msg dst iv => (.op, 0x11#8 :: (msg ++ dst :: iv.list))
  | .pingSend target iv => (.op, 0x12#8 :: target :: iv.list)

/-! ## The opcode table as data -/

/-- The row of a class of the `protocol` byte under a layout. -/
def protoRow (L : Layout) (c : ProtoClass) : Row :=
  ⟨match L with | .F => .protoF | .S => .protoS, c.pattern, c.mask⟩

/-- The row of an operation: its selector under the five-bit mask. -/
def opRow (sel : Byte) : Row := ⟨.op, sel, 0x1F#8⟩

/-- The table row of each instruction (R83). -/
def Instr.row : Instr → Row
  | .protoReservedF _ _ => protoRow .F .reserved
  | .protoTimeF _ _ => protoRow .F .time
  | .protoChatF _ _ => protoRow .F .chat
  | .protoPingF _ _ => protoRow .F .ping
  | .protoUnrecognized04F _ _ => protoRow .F .unrecognized04
  | .protoUnrecognized08F _ _ => protoRow .F .unrecognized08
  | .protoUnrecognized10F _ _ => protoRow .F .unrecognized10
  | .protoUnrecognized20F _ _ => protoRow .F .unrecognized20
  | .protoUnrecognized40F _ _ => protoRow .F .unrecognized40
  | .protoUnrecognized80F _ _ => protoRow .F .unrecognized80
  | .protoReservedS _ _ => protoRow .S .reserved
  | .protoTimeS _ _ => protoRow .S .time
  | .protoChatS _ _ => protoRow .S .chat
  | .protoPingS _ _ => protoRow .S .ping
  | .protoUnrecognized04S _ _ => protoRow .S .unrecognized04
  | .protoUnrecognized08S _ _ => protoRow .S .unrecognized08
  | .protoUnrecognized10S _ _ => protoRow .S .unrecognized10
  | .protoUnrecognized20S _ _ => protoRow .S .unrecognized20
  | .protoUnrecognized40S _ _ => protoRow .S .unrecognized40
  | .protoUnrecognized80S _ _ => protoRow .S .unrecognized80
  | .frameClear => opRow 0x00#8
  | .frameBuild _ _ _ _ _ _ => opRow 0x01#8
  | .frameValidate _ _ => opRow 0x02#8
  | .crcGen _ => opRow 0x03#8
  | .crcCheck _ => opRow 0x04#8
  | .keySetLiteral _ => opRow 0x05#8
  | .keySetIndex _ => opRow 0x06#8
  | .keyClear => opRow 0x07#8
  | .encrypt _ => opRow 0x08#8
  | .decrypt _ => opRow 0x09#8
  | .selftest => opRow 0x0A#8
  | .dispatch _ _ _ => opRow 0x0B#8
  | .chatRx _ _ => opRow 0x0C#8
  | .pingRx _ _ _ => opRow 0x0D#8
  | .rxFrame _ _ => opRow 0x0E#8
  | .txFrame _ _ _ _ _ => opRow 0x0F#8
  | .shout _ _ => opRow 0x10#8
  | .tell _ _ _ => opRow 0x11#8
  | .pingSend _ _ => opRow 0x12#8

/-- Where the opcode byte of a format stands in a word: the selector byte, or the `protocol` byte of R83. -/
def opcodeOffset : Format → Nat
  | .op => 0
  | .protoF => Layout.protocolOffset .F
  | .protoS => Layout.protocolOffset .S

/-! ## Bare table words -/

/-- The bytes of a word of `nbits` bits, the first word's least significant bit first. -/
def wordBytes (nbits w : Nat) : List Byte :=
  (List.range ((nbits + 7) / 8)).map fun i => BitVec.ofNat 8 ((w % 2 ^ nbits) >>> (8 * i))

/-- The shortest operand string of a selector, in bytes: `msg` and `lit` empty (R80, R81). -/
def shortestOperands (sel : Byte) : Nat :=
  match sel.toNat with
  | 0x01 => 4 + ivtSize
  | 0x02 => 1 + frameSize
  | 0x03 => frameSize
  | 0x04 => frameSize
  | 0x06 => 1
  | 0x08 => frameSize
  | 0x09 => frameSize
  | 0x0B => 1 + frameSize + ivtSize
  | 0x0C => 1 + frameSize
  | 0x0D => 1 + frameSize + ivtSize
  | 0x0E => frameSize + ivtSize
  | 0x0F => 3 + ivtSize
  | 0x10 => ivtSize
  | 0x11 => 1 + ivtSize
  | 0x12 => 1 + ivtSize
  | _ => 0

/-- `bs`, then zeros up to `n` bytes. -/
def padTo (n : Nat) (bs : List Byte) : List Byte := bs ++ zeros (n - bs.length)

/-- A bare table word laid out as a word of one of the formats. The eight bits alone do not say which of the three formats
they are of: a byte that is an assigned selector is read as an operation, any other as the `protocol` byte of a plain frame
whose other bytes are 00 (DESIGN CHOICE, log entry 4). -/
def tableWord (nbits w : Nat) : Format × List Byte :=
  match wordBytes nbits w with
  | [] => (.op, [])
  | b :: bs =>
    if b.toNat < firstUnassigned then (.op, b :: padTo (shortestOperands b) bs)
    else (.protoF, padTo (frameSize + ivtSize) (zeros (Layout.protocolOffset .F) ++ b :: bs))

/-- The instruction the decoder reads from a bare table word. -/
def decodeTableWord (nbits w : Nat) : Option Instr :=
  match decode (tableWord nbits w).1 (tableWord nbits w).2 with
  | .ok i => some i
  | .error _ => none

end Sys2Proof
end

