-- ==== Sys2Proof/Machine/State.lean ====
section
/-! DEFINITION. The machine's state as plain data, what an operation gives to the outside, why a step can stop, and the state
after reset (spec 10_state.md R20 to R30, 60_exceptions.md R200, R203, R214, 70_reset_and_hazards.md R230, R231). -/

namespace Sys2Proof.Machine

/-! ## What an operation returns (R200, R214) -/

/-- The ten status names, in code order (R200). -/
inductive StatusKind where
  | ok
  | payloadTooLarge
  | noKey
  | malformedFrame
  | unknownProtocol
  | unaddressedFrame
  | argumentError
  | badMagic
  | badCrc
  | selfTestFail
  deriving DecidableEq, Repr

/-- A status with the value it records (R200's last column). -/
inductive Status where
  | ok
  /-- The offending length. -/
  | payloadTooLarge (length : Nat)
  | noKey
  /-- The declared `length`. -/
  | malformedFrame (length : Byte)
  | unknownProtocol
  | unaddressedFrame
  | argumentError
  | badMagic
  /-- The stored and the computed CRC values. -/
  | badCrc (stored computed : BitVec 32)
  /-- The 3-bit region mask: bit 0 clear-text region, bit 1 IV, bit 2 encrypted region (R121). -/
  | selfTestFail (mask : BitVec 3)
  deriving DecidableEq, Repr

/-- The route a frame takes at the dispatcher (R150). -/
inductive Route where
  | dropped
  | timeExternal
  | chat
  | ping
  deriving DecidableEq, Repr

/-- The classes of a Chat frame that is for this node (R153). -/
inductive ChatClass where
  | direct
  | broadcast
  deriving DecidableEq, Repr

/-- The classes of a Ping frame that concerns this node (R155). -/
inductive PingClass where
  | probeToUs
  | ownResponse
  deriving DecidableEq, Repr

/-- The value an operation returns beside its status and route (R80's result column). -/
inductive Value where
  | none
  | frame (B : Frame)
  | mask (m : BitVec 3)
  | chat (cls : ChatClass) (sender : Byte) (text : List Byte)
  | ping (cls : PingClass)
  deriving DecidableEq, Repr

/-- An output event: one call to a collaborator (R203). -/
inductive Event where
  /-- `send(bytes)` to the transport. -/
  | send (B : Frame)
  /-- The rendered message (R172). -/
  | chatRender (cls : ChatClass) (sender : Byte) (text : List Byte)
  /-- The latency report in milliseconds (R175). -/
  | pingReport (ms : Int)
  /-- The "log diagnostic" of a status. -/
  | diagnostic (kind : StatusKind)
  /-- Which region differed (R121). -/
  | selfTestReport (mask : BitVec 3)
  /-- `/help` (R194). -/
  | helpText
  /-- `/date` (R194). -/
  | dateReport (t : TimeValue)
  /-- A status reported to the user of the command surface (R198). -/
  | commandError (st : Status)
  deriving DecidableEq, Repr

/-- Everything one operation gives to the outside (R214): its status, its route where it has one, its value, and its events in
the order emitted. -/
structure Response where
  status : Status
  route : Option Route
  value : Value
  events : List Event
  deriving DecidableEq, Repr

/-! ## The block's own state -/

/-- The register `KEY` (R23). -/
structure KeyReg where
  /-- `KEY.valid`. -/
  valid : Bool
  /-- `KEY.bytes`, `KEY_SIZE` bytes. -/
  bytes : List Byte
  /-- `KEY.bits`, the declared bit-length. -/
  bits : BitVec 16
  deriving DecidableEq, Repr

/-- The canonical absent state of `KEY` (R23, R30). -/
def KeyReg.absent (k : KeySize) : KeyReg := ⟨false, zeros k.bytes, 0#16⟩

/-- The sequencing state: one value (R22). -/
inductive SeqState where
  | dispatchIdle
  deriving DecidableEq, Repr

/-! ## The requests of the agents (00_scope.md R10, R12, R214) -/

/-- One thing the surroundings do to the block. -/
inductive Body where
  /-- An operation requested by either context, as an instruction word of one of the table's formats (R12, R80). -/
  | word (fmt : Format) (bytes : List Byte)
  /-- The receive event: the transport delivers a block; with the free `iv` of R160 (R204). -/
  | receive (W : Frame) (iv : Iv)
  /-- `read_line()` yields one line of the command surface, with the free `iv` of the frame it may send (R190). -/
  | line (text : List Byte) (iv : Iv)
  /-- The surrounding system has the receive callback registered (R232). -/
  | registerCallback
  /-- The reset transition, taken at power-up only (R230). -/
  | powerUp
  deriving DecidableEq, Repr

/-- A request and the answer `current_time()` would give while it is served: `NOW` "may differ at every call" (R21). -/
structure Request where
  body : Body
  now : TimeValue
  deriving DecidableEq, Repr

/-! ## The state -/

/-- The state of the machine. `seq`, `key` and `callback` are the block's (R22, R23, R30); `cfg` and `now` are the inputs that
no operation writes (R8, R21); `inbox`, `resp` and `log` are the ports of the block's interface (R12, R214; DESIGN CHOICE, log
entry 1). -/
structure State where
  /-- Sequencing state (R22). -/
  seq : SeqState
  /-- The key register (R23). -/
  key : KeyReg
  /-- Whether the receive callback is registered (R30, R232). -/
  callback : Bool
  /-- The parameters, `NODE_ADDR` and `KEYSTORE` among them (R8, R21). -/
  cfg : Config
  /-- `NOW`: the clock's answer for the request being served (R21). -/
  now : TimeValue
  /-- The requests still to be served, in the total order of R50. -/
  inbox : List Request
  /-- What the last request returned; `none` where it was no operation. -/
  resp : Option Response
  /-- Every event emitted so far, in order (R203, R52). -/
  log : List Event
  deriving DecidableEq, Repr

/-- Why the machine could stop with a fault: there is no way. "The block has no stuck state, no halt, no fatal error"
(60_exceptions.md R208), so no meaning and no step raises a fault. -/
inductive Fault where
  deriving DecidableEq, Repr

/-- Why a step can be refused. Every refusal is safe: the model stops where the spec says that it describes nothing (DEDUCED,
log entry 8). -/
inductive Refusal where
  /-- An instruction without a meaning yet. No arm of `exec` raises it now. Safe. -/
  | notModelled (mnemonic : String)
  /-- Raised by the step for a word that stands for no instruction: an unassigned selector "is refused, changes no state and
  produces nothing" (R82), and bytes that are not the operands of their selector are ruled out (R81, 93 U16). Safe. -/
  | undecodable (e : DecodeError)
  /-- Raised by the step for a second registration of the receive callback, "outside this spec" (R232, 93 U24). Safe. -/
  | secondCallback
  deriving DecidableEq, Repr

/-- The machine right after reset (R30, R231): the key absent, the dispatcher idle, no callback registered; nothing requested,
returned or emitted yet. The inputs "are not the block's and are not reset by it": they are opaque
(DESIGN CHOICE, log entry 2). -/
def State.reset : State where
  seq := .dispatchIdle
  key := KeyReg.absent Config.initial.keySize
  callback := false
  cfg := Config.initial
  now := ⟨Config.openClockSeconds, Config.openClockParts⟩
  inbox := []
  resp := none
  log := []

end Sys2Proof.Machine
end

