-- ==== Sys2Proof/Machine/Ops.lean ====
section
/-! DEFINITION. The named operations over frames and over the state: reading and writing a buffer (00_scope.md R14, 20_memory.md
R40 to R48), returning from an operation, and raising a status, which is this block's taking of an exception
(60_exceptions.md R206) with its return (R207). -/

namespace Sys2Proof.Machine

/-! ## Buffers -/

/-- `MemRead(B, off, n)`: the `n` bytes `B[off .. off+n-1]` (R14). -/
def memRead {m : Nat} (B : Bytes m) (off n : Nat) : List Byte := (B.list.drop off).take n

/-- `bs` with the bytes of `v` written from position `off` on; bytes of `v` that would fall past the end are not written. -/
def overlay : List Byte → Nat → List Byte → List Byte
  | [], _, _ => []
  | b :: bs, 0, [] => b :: bs
  | _ :: bs, 0, x :: v => x :: overlay bs 0 v
  | b :: bs, off + 1, v => b :: overlay bs off v

/-- Writing over a buffer keeps its size. -/
theorem overlay_length (bs : List Byte) (off : Nat) (v : List Byte) : (overlay bs off v).length = bs.length := by
  induction bs, off, v using overlay.induct <;> simp_all [overlay]

/-- `MemWrite(B, off, n, v)`: the buffer with bytes `off .. off+n-1` replaced by the `n`-byte string `v` (R14). -/
def memWrite {m : Nat} (B : Bytes m) (off : Nat) (v : List Byte) : Bytes m :=
  ⟨overlay B.list off v, by rw [overlay_length]; exact B.len⟩

/-! ## Returning a result and raising a status -/

/-- The response of an operation that returns `OK` with a value and the events it emitted. -/
def Response.returns (v : Value) (evs : List Event) : Response := ⟨.ok, none, v, evs⟩

/-- `raise <Status>` (R14, R206): the operation ends at once; it returns the status and its recorded value, no output byte
string and no `send`; only the events already emitted before the `raise` stand. -/
def Response.raises (st : Status) (evs : List Event) : Response := ⟨st, none, .none, evs⟩

/-- The response with a route beside it (R150). -/
def Response.routed (rt : Route) (r : Response) : Response := { r with route := some rt }

/-- The return from any operation, whatever its status (R207): nothing was saved, nothing is restored, the block is in the
state `DISPATCH_IDLE` and accepts the next operation. -/
def State.returnIdle (s : State) : State := { s with seq := .dispatchIdle }

/-- An operation's response is handed to its caller and its events to their collaborators, in order (R203, R206). -/
def State.deliver (s : State) (r : Response) : State :=
  State.returnIdle { s with resp := some r, log := s.log ++ r.events }

/-- A request that was no operation returns nothing. -/
def State.noReply (s : State) : State := State.returnIdle { s with resp := none }

/-- The operation of the block that answers `r` and leaves every state of the block as it was. -/
def answer (s : State) (r : Response) : Host.Outcome State Fault Refusal := .next (s.deliver r)

/-- Taking an exception (R206): the status goes to the caller; `KEY` and all other state of the block are as before. -/
def State.raise (s : State) (st : Status) (evs : List Event) : State := s.deliver (Response.raises st evs)

/-- The operation of the block that writes the whole key register and returns `OK`, or raises a status and leaves `KEY`
unchanged (R24, R51, R110). -/
def writeKey (s : State) (r : Except Status KeyReg) : Host.Outcome State Fault Refusal :=
  .next (match r with
    | .ok k => State.deliver { s with key := k } (Response.returns .none [])
    | .error st => s.raise st [])

/-- The reset transition at power-up (R230, R231): the block's own state takes its reset values; the inputs `NODE_ADDR`, `NOW`,
`KEYSTORE` and the parameters are not the block's, the requests still to come are the agents', and what was emitted stays
emitted. -/
def State.powerUp (s : State) : State :=
  { s with seq := .dispatchIdle, key := KeyReg.absent s.cfg.keySize, callback := false, resp := none }

/-- Registering the receive callback (R232). -/
def State.registered (s : State) : State := State.noReply { s with callback := true }

end Sys2Proof.Machine
end

