-- ==== Sys2Proof/Machine/Operands.lean ====
section
/-! DEFINITION. The operand forms: field offsets and sizes of the two layouts (30_encoding.md R60, R63, R66), byte order
(20_memory.md R41, 30_encoding.md R67), time values and Ping Packets (R68, R69, 44_subprotocols.md R177). -/

namespace Sys2Proof.Machine

/-! ## Layouts -/

/-- The fields that both layouts have (R66); `padding` of layout F is `spad` of layout S. -/
inductive Field where
  | magic
  | source
  | destination
  | protocol
  | length
  | padding
  | payload
  | crc
  deriving DecidableEq, Repr

/-- `off(L, name)` (R66). -/
def off : Layout → Field → Nat
  | _, .magic => 0
  | _, .source => 2
  | _, .destination => 3
  | .F, .protocol => 4
  | .S, .protocol => 20
  | .F, .length => 5
  | .S, .length => 21
  | .F, .padding => 6
  | .S, .padding => 22
  | .F, .payload => 8
  | .S, .payload => 32
  | _, .crc => 208

/-- The offset of `ivt`, a field of layout S alone (R63, R66). -/
def ivtOff : Nat := 4

/-- `cap(L)`: the payload capacity, `PAYLOAD_CAPACITY` or `SEC_PAYLOAD_CAPACITY` (R7, R8, R66). -/
def cap : Layout → Nat
  | .F => 200
  | .S => 176

/-- The size of a field (R66). -/
def fieldSize : Layout → Field → Nat
  | _, .magic => 2
  | _, .source => 1
  | _, .destination => 1
  | _, .protocol => 1
  | _, .length => 1
  | .F, .padding => 2
  | .S, .padding => 10
  | L, .payload => cap L
  | _, .crc => 4

/-- `fld(B, L, name)` as a byte string (R66). -/
def fld (B : Frame) (L : Layout) (f : Field) : List Byte := memRead B (off L f) (fieldSize L f)

/-- `fld(B, L, name)` of a one-byte field: the unsigned 8-bit integer (R66, R67). -/
def fldByte (B : Frame) (L : Layout) (f : Field) : Byte := B.at (off L f)

/-! ## Byte order -/

/-- `to_le_32(v)`: four bytes, the least significant first (R14). -/
def toLe32 (v : BitVec 32) : List Byte := [v.setWidth 8, (v >>> 8).setWidth 8, (v >>> 16).setWidth 8, (v >>> 24).setWidth 8]

/-- `to_be_32(v)` (R14). -/
def toBe32 (v : BitVec 32) : List Byte := (toLe32 v).reverse

/-- `le_32(B)`: the unsigned integer of four bytes, `B[0]` least significant (R14). -/
def le32 (bs : List Byte) : BitVec 32 := byteAt bs 3 ++ byteAt bs 2 ++ byteAt bs 1 ++ byteAt bs 0

/-- `be_32(B)` (R14). -/
def be32 (bs : List Byte) : BitVec 32 := byteAt bs 0 ++ byteAt bs 1 ++ byteAt bs 2 ++ byteAt bs 3

/-- A `crc` value as the four bytes of its field, under `CRC_FIELD_ORDER` (R41, R67). -/
def crcBytes : ByteOrder → BitVec 32 → List Byte
  | .little, v => toLe32 v
  | .big, v => toBe32 v

/-- The value of a `crc` field's four bytes (R67). -/
def crcValue : ByteOrder → List Byte → BitVec 32
  | .little, bs => le32 bs
  | .big, bs => be32 bs

/-- The stored `crc` of a frame (R67). -/
def storedCrc (cfg : Config) (B : Frame) : BitVec 32 := crcValue cfg.crcOrder (memRead B 208 4)

/-! ## Time values and Ping Packets -/

/-- `time_pack` (R177). -/
def timePack (t : TimeValue) : List Byte := toLe32 t.seconds ++ [t.parts]

/-- `time_unpack` (R177). -/
def timeUnpack (T : List Byte) : TimeValue := ⟨le32 T, byteAt T 4⟩

/-- An unset time stamp, encoded as zeros (R68). -/
def unsetTime : TimeValue := ⟨0#32, 0#8⟩

/-- `ping_pack` (R177). -/
def pingPack (out back : TimeValue) (origin : Byte) : List Byte := timePack out ++ timePack back ++ [origin]

/-- The Ping Packet: the first `PING_PACKET_SIZE` payload bytes (R68). -/
def pingPacket (L : Layout) (B : Frame) : List Byte := memRead B (off L .payload) pingPacketSize

/-- `ping_out` (R177). -/
def pingOut (P : List Byte) : TimeValue := timeUnpack (P.take 5)

/-- `ping_back` (R177). -/
def pingBack (P : List Byte) : TimeValue := timeUnpack ((P.drop 5).take 5)

/-- `ping_origin` (R177). -/
def pingOrigin (L : Layout) (B : Frame) : Byte := B.at (off L .payload + 10)

/-- `tdiv(a, b)`: division truncating toward zero, `sign(a) * floor(|a| / b)` (R178). -/
def tdiv (a : Int) (b : Nat) : Int := a.sign * ((a.natAbs / b : Nat) : Int)

/-- `rtt_ms`: the round-trip computation in mathematical integers (R178). -/
def rttMs (out back : TimeValue) : Int :=
  let ds : Int := (back.seconds.toNat : Int) - (out.seconds.toNat : Int)
  let dp : Int := (back.parts.toNat : Int) - (out.parts.toNat : Int)
  ds * 1000 + tdiv (dp * 1000) 256

/-- The order of time values, lexicographic (R176). -/
def TimeLe (a b : TimeValue) : Prop := a.seconds < b.seconds ∨ (a.seconds = b.seconds ∧ a.parts ≤ b.parts)

end Sys2Proof.Machine
end

