-- ==== Sys2Proof/Machine/Aes.lean ====
section
/-! DEFINITION. The AES block cipher (42_aes_block_cipher.md R130 to R138). The state of R131 is four columns of four bytes, its
bytes in the flat order `X[r + 4c]`. -/

namespace Sys2Proof.Machine

/-- A word of the cipher: four bytes in order (R131). -/
structure AesWord where
  b0 : Byte
  b1 : Byte
  b2 : Byte
  b3 : Byte
  deriving DecidableEq, Repr

/-- The cipher's state, and a round key: column `c` is a word (R131). -/
structure Block where
  c0 : AesWord
  c1 : AesWord
  c2 : AesWord
  c3 : AesWord
  deriving DecidableEq, Repr

/-! ## Words and blocks -/

/-- The word of zeros. -/
def AesWord.zero : AesWord := ⟨0, 0, 0, 0⟩
/-- Bytewise exclusive or. -/
def AesWord.xor (x y : AesWord) : AesWord := ⟨x.b0 ^^^ y.b0, x.b1 ^^^ y.b1, x.b2 ^^^ y.b2, x.b3 ^^^ y.b3⟩
/-- A function on each byte. -/
def AesWord.map (f : Byte → Byte) (x : AesWord) : AesWord := ⟨f x.b0, f x.b1, f x.b2, f x.b3⟩
/-- The bytes in order. -/
def AesWord.bytes (w : AesWord) : List Byte := [w.b0, w.b1, w.b2, w.b3]
/-- The first four bytes as a word. -/
def AesWord.ofBytes (bs : List Byte) : AesWord := ⟨byteAt bs 0, byteAt bs 1, byteAt bs 2, byteAt bs 3⟩

/-- Bytewise exclusive or. -/
def Block.xor (x y : Block) : Block := ⟨x.c0.xor y.c0, x.c1.xor y.c1, x.c2.xor y.c2, x.c3.xor y.c3⟩
/-- A function on each column. -/
def Block.map (f : AesWord → AesWord) (x : Block) : Block := ⟨f x.c0, f x.c1, f x.c2, f x.c3⟩
/-- `bytes_of`: the sixteen bytes in flat order (R131). -/
def Block.bytes (x : Block) : List Byte := x.c0.bytes ++ x.c1.bytes ++ x.c2.bytes ++ x.c3.bytes
/-- `state_of`: the first sixteen bytes, column by column (R131). -/
def Block.ofBytes (bs : List Byte) : Block :=
  ⟨AesWord.ofBytes bs, AesWord.ofBytes (bs.drop 4), AesWord.ofBytes (bs.drop 8), AesWord.ofBytes (bs.drop 12)⟩

/-! ## GF(2^8) and the S-boxes -/

/-- `xtime(a)`: multiplication by x modulo 0x11B (R132). -/
def xtime (a : Byte) : Byte := (a <<< 1) ^^^ (if a.msb then 0x1B#8 else 0x00#8)

/-- `xtime` applied `n` times. -/
def xtimes : Nat → Byte → Byte
  | 0, a => a
  | n + 1, a => xtime (xtimes n a)

/-- `a • b`: the xor over the set bits `i` of `b` of `xtime` applied `i` times to `a` (R132). -/
def gmul (a b : Byte) : Byte := (List.range 8).foldl (fun acc i => if b.getLsbD i then acc ^^^ xtimes i a else acc) 0#8

/-- The table of R133, one row per high nibble. -/
def sboxTable : List (List Byte) := [
  [0x63, 0x7C, 0x77, 0x7B, 0xF2, 0x6B, 0x6F, 0xC5, 0x30, 0x01, 0x67, 0x2B, 0xFE, 0xD7, 0xAB, 0x76],
  [0xCA, 0x82, 0xC9, 0x7D, 0xFA, 0x59, 0x47, 0xF0, 0xAD, 0xD4, 0xA2, 0xAF, 0x9C, 0xA4, 0x72, 0xC0],
  [0xB7, 0xFD, 0x93, 0x26, 0x36, 0x3F, 0xF7, 0xCC, 0x34, 0xA5, 0xE5, 0xF1, 0x71, 0xD8, 0x31, 0x15],
  [0x04, 0xC7, 0x23, 0xC3, 0x18, 0x96, 0x05, 0x9A, 0x07, 0x12, 0x80, 0xE2, 0xEB, 0x27, 0xB2, 0x75],
  [0x09, 0x83, 0x2C, 0x1A, 0x1B, 0x6E, 0x5A, 0xA0, 0x52, 0x3B, 0xD6, 0xB3, 0x29, 0xE3, 0x2F, 0x84],
  [0x53, 0xD1, 0x00, 0xED, 0x20, 0xFC, 0xB1, 0x5B, 0x6A, 0xCB, 0xBE, 0x39, 0x4A, 0x4C, 0x58, 0xCF],
  [0xD0, 0xEF, 0xAA, 0xFB, 0x43, 0x4D, 0x33, 0x85, 0x45, 0xF9, 0x02, 0x7F, 0x50, 0x3C, 0x9F, 0xA8],
  [0x51, 0xA3, 0x40, 0x8F, 0x92, 0x9D, 0x38, 0xF5, 0xBC, 0xB6, 0xDA, 0x21, 0x10, 0xFF, 0xF3, 0xD2],
  [0xCD, 0x0C, 0x13, 0xEC, 0x5F, 0x97, 0x44, 0x17, 0xC4, 0xA7, 0x7E, 0x3D, 0x64, 0x5D, 0x19, 0x73],
  [0x60, 0x81, 0x4F, 0xDC, 0x22, 0x2A, 0x90, 0x88, 0x46, 0xEE, 0xB8, 0x14, 0xDE, 0x5E, 0x0B, 0xDB],
  [0xE0, 0x32, 0x3A, 0x0A, 0x49, 0x06, 0x24, 0x5C, 0xC2, 0xD3, 0xAC, 0x62, 0x91, 0x95, 0xE4, 0x79],
  [0xE7, 0xC8, 0x37, 0x6D, 0x8D, 0xD5, 0x4E, 0xA9, 0x6C, 0x56, 0xF4, 0xEA, 0x65, 0x7A, 0xAE, 0x08],
  [0xBA, 0x78, 0x25, 0x2E, 0x1C, 0xA6, 0xB4, 0xC6, 0xE8, 0xDD, 0x74, 0x1F, 0x4B, 0xBD, 0x8B, 0x8A],
  [0x70, 0x3E, 0xB5, 0x66, 0x48, 0x03, 0xF6, 0x0E, 0x61, 0x35, 0x57, 0xB9, 0x86, 0xC1, 0x1D, 0x9E],
  [0xE1, 0xF8, 0x98, 0x11, 0x69, 0xD9, 0x8E, 0x94, 0x9B, 0x1E, 0x87, 0xE9, 0xCE, 0x55, 0x28, 0xDF],
  [0x8C, 0xA1, 0x89, 0x0D, 0xBF, 0xE6, 0x42, 0x68, 0x41, 0x99, 0x2D, 0x0F, 0xB0, 0x54, 0xBB, 0x16]]

/-- The table of R134, one row per high nibble. -/
def invSboxTable : List (List Byte) := [
  [0x52, 0x09, 0x6A, 0xD5, 0x30, 0x36, 0xA5, 0x38, 0xBF, 0x40, 0xA3, 0x9E, 0x81, 0xF3, 0xD7, 0xFB],
  [0x7C, 0xE3, 0x39, 0x82, 0x9B, 0x2F, 0xFF, 0x87, 0x34, 0x8E, 0x43, 0x44, 0xC4, 0xDE, 0xE9, 0xCB],
  [0x54, 0x7B, 0x94, 0x32, 0xA6, 0xC2, 0x23, 0x3D, 0xEE, 0x4C, 0x95, 0x0B, 0x42, 0xFA, 0xC3, 0x4E],
  [0x08, 0x2E, 0xA1, 0x66, 0x28, 0xD9, 0x24, 0xB2, 0x76, 0x5B, 0xA2, 0x49, 0x6D, 0x8B, 0xD1, 0x25],
  [0x72, 0xF8, 0xF6, 0x64, 0x86, 0x68, 0x98, 0x16, 0xD4, 0xA4, 0x5C, 0xCC, 0x5D, 0x65, 0xB6, 0x92],
  [0x6C, 0x70, 0x48, 0x50, 0xFD, 0xED, 0xB9, 0xDA, 0x5E, 0x15, 0x46, 0x57, 0xA7, 0x8D, 0x9D, 0x84],
  [0x90, 0xD8, 0xAB, 0x00, 0x8C, 0xBC, 0xD3, 0x0A, 0xF7, 0xE4, 0x58, 0x05, 0xB8, 0xB3, 0x45, 0x06],
  [0xD0, 0x2C, 0x1E, 0x8F, 0xCA, 0x3F, 0x0F, 0x02, 0xC1, 0xAF, 0xBD, 0x03, 0x01, 0x13, 0x8A, 0x6B],
  [0x3A, 0x91, 0x11, 0x41, 0x4F, 0x67, 0xDC, 0xEA, 0x97, 0xF2, 0xCF, 0xCE, 0xF0, 0xB4, 0xE6, 0x73],
  [0x96, 0xAC, 0x74, 0x22, 0xE7, 0xAD, 0x35, 0x85, 0xE2, 0xF9, 0x37, 0xE8, 0x1C, 0x75, 0xDF, 0x6E],
  [0x47, 0xF1, 0x1A, 0x71, 0x1D, 0x29, 0xC5, 0x89, 0x6F, 0xB7, 0x62, 0x0E, 0xAA, 0x18, 0xBE, 0x1B],
  [0xFC, 0x56, 0x3E, 0x4B, 0xC6, 0xD2, 0x79, 0x20, 0x9A, 0xDB, 0xC0, 0xFE, 0x78, 0xCD, 0x5A, 0xF4],
  [0x1F, 0xDD, 0xA8, 0x33, 0x88, 0x07, 0xC7, 0x31, 0xB1, 0x12, 0x10, 0x59, 0x27, 0x80, 0xEC, 0x5F],
  [0x60, 0x51, 0x7F, 0xA9, 0x19, 0xB5, 0x4A, 0x0D, 0x2D, 0xE5, 0x7A, 0x9F, 0x93, 0xC9, 0x9C, 0xEF],
  [0xA0, 0xE0, 0x3B, 0x4D, 0xAE, 0x2A, 0xF5, 0xB0, 0xC8, 0xEB, 0xBB, 0x3C, 0x83, 0x53, 0x99, 0x61],
  [0x17, 0x2B, 0x04, 0x7E, 0xBA, 0x77, 0xD6, 0x26, 0xE1, 0x69, 0x14, 0x63, 0x55, 0x21, 0x0C, 0x7D]]

/-- The entry of a 16 by 16 table for a byte: row its high nibble, column its low nibble (R133, R134). -/
def tableEntry (t : List (List Byte)) (a : Byte) : Byte := byteAt (t.getD (a.toNat / 16) []) (a.toNat % 16)

/-- `SBOX[a]` (R133). -/
def sbox (a : Byte) : Byte := tableEntry sboxTable a

/-- `INV_SBOX[a]` (R134). -/
def invSbox (a : Byte) : Byte := tableEntry invSboxTable a

/-! ## The round transformations (R135) -/

/-- `SubBytes`. -/
def subBytes (s : Block) : Block := s.map (AesWord.map sbox)
/-- `InvSubBytes`. -/
def invSubBytes (s : Block) : Block := s.map (AesWord.map invSbox)

/-- `ShiftRows`: row `r` rotated left by `r` bytes. -/
def shiftRows (s : Block) : Block :=
  ⟨⟨s.c0.b0, s.c1.b1, s.c2.b2, s.c3.b3⟩, ⟨s.c1.b0, s.c2.b1, s.c3.b2, s.c0.b3⟩,
    ⟨s.c2.b0, s.c3.b1, s.c0.b2, s.c1.b3⟩, ⟨s.c3.b0, s.c0.b1, s.c1.b2, s.c2.b3⟩⟩
/-- `InvShiftRows`: row `r` rotated right by `r` bytes. -/
def invShiftRows (s : Block) : Block :=
  ⟨⟨s.c0.b0, s.c3.b1, s.c2.b2, s.c1.b3⟩, ⟨s.c1.b0, s.c0.b1, s.c3.b2, s.c2.b3⟩,
    ⟨s.c2.b0, s.c1.b1, s.c0.b2, s.c3.b3⟩, ⟨s.c3.b0, s.c2.b1, s.c1.b2, s.c0.b3⟩⟩

/-- `MixColumns` on one column. -/
def mixColumn (a : AesWord) : AesWord :=
  ⟨gmul 0x02 a.b0 ^^^ gmul 0x03 a.b1 ^^^ a.b2 ^^^ a.b3,
    a.b0 ^^^ gmul 0x02 a.b1 ^^^ gmul 0x03 a.b2 ^^^ a.b3,
    a.b0 ^^^ a.b1 ^^^ gmul 0x02 a.b2 ^^^ gmul 0x03 a.b3,
    gmul 0x03 a.b0 ^^^ a.b1 ^^^ a.b2 ^^^ gmul 0x02 a.b3⟩
/-- `InvMixColumns` on one column. -/
def invMixColumn (a : AesWord) : AesWord :=
  ⟨gmul 0x0E a.b0 ^^^ gmul 0x0B a.b1 ^^^ gmul 0x0D a.b2 ^^^ gmul 0x09 a.b3,
    gmul 0x09 a.b0 ^^^ gmul 0x0E a.b1 ^^^ gmul 0x0B a.b2 ^^^ gmul 0x0D a.b3,
    gmul 0x0D a.b0 ^^^ gmul 0x09 a.b1 ^^^ gmul 0x0E a.b2 ^^^ gmul 0x0B a.b3,
    gmul 0x0B a.b0 ^^^ gmul 0x0D a.b1 ^^^ gmul 0x09 a.b2 ^^^ gmul 0x0E a.b3⟩

/-- `MixColumns`. -/
def mixColumns (s : Block) : Block := s.map mixColumn
/-- `InvMixColumns`. -/
def invMixColumns (s : Block) : Block := s.map invMixColumn

/-! ## Key expansion (R136) -/

/-- `RotWord`. -/
def rotWord (w : AesWord) : AesWord := ⟨w.b1, w.b2, w.b3, w.b0⟩
/-- `SubWord`. -/
def subWord (w : AesWord) : AesWord := w.map sbox
/-- `Rcon(j) = [rc_j, 00, 00, 00]`, `rc_1 = 01`, `rc_{j+1} = xtime(rc_j)`. -/
def rcon (j : Nat) : AesWord := ⟨xtimes (j - 1) 0x01#8, 0, 0, 0⟩

/-- The word `t` that is xored into `w[i-Nk]`, from `w[i-1]`. -/
def expansionWord (nk i : Nat) (t : AesWord) : AesWord :=
  if i % nk = 0 then (subWord (rotWord t)).xor (rcon (i / nk))
  else if 6 < nk ∧ i % nk = 4 then subWord t
  else t

/-- `n` more words, `w[i]` the next; `ws` is `w[i-1], …, w[0]`, the newest first. -/
def expandWords (nk : Nat) : Nat → Nat → List AesWord → List AesWord
  | 0, _, ws => ws
  | n + 1, i, ws =>
    expandWords nk n (i + 1)
      ((ws.getD (nk - 1) AesWord.zero).xor (expansionWord nk i (ws.getD 0 AesWord.zero)) :: ws)

/-- The first `n` words of a byte string. -/
def wordsOf : Nat → List Byte → List AesWord
  | 0, _ => []
  | n + 1, bs => AesWord.ofBytes bs :: wordsOf n (bs.drop 4)

/-- `KeyExpansion(K)`: the words `w[0] .. w[4*Nr + 3]`. -/
def keyExpansion (ks : KeySize) (K : List Byte) : List AesWord :=
  (expandWords ks.nk (4 * (ks.nr + 1) - ks.nk) ks.nk (wordsOf ks.nk K).reverse).reverse

/-- The words taken four at a time: `n` round keys. -/
def roundKeysOf : Nat → List AesWord → List Block
  | 0, _ => []
  | n + 1, ws =>
    ⟨ws.getD 0 AesWord.zero, ws.getD 1 AesWord.zero, ws.getD 2 AesWord.zero, ws.getD 3 AesWord.zero⟩ ::
      roundKeysOf n (ws.drop 4)

/-- The `Nr + 1` round keys of a key. -/
def roundKeys (ks : KeySize) (K : List Byte) : List Block := roundKeysOf (ks.nr + 1) (keyExpansion ks K)

/-! ## The cipher and its inverse -/

/-- The rounds after the first `AddRoundKey`, one per round key; the last has no `MixColumns` (R137). -/
def encryptRounds : List Block → Block → Block
  | [], s => s
  | [k], s => (shiftRows (subBytes s)).xor k
  | k :: k' :: ks, s => encryptRounds (k' :: ks) ((mixColumns (shiftRows (subBytes s))).xor k)

/-- The cipher under round keys, round 0 first (R137). -/
def encryptBlock : List Block → Block → Block
  | [], s => s
  | k :: ks, s => encryptRounds ks (s.xor k)

/-- The rounds of the inverse cipher from the last round key down to round key 0 (R138); `rks` is the keys of the rounds
`Nr-1 .. 0` in that order. -/
def decryptRounds : List Block → Block → Block
  | [], s => s
  | [k], s => (invSubBytes (invShiftRows s)).xor k
  | k :: k' :: rks, s => decryptRounds (k' :: rks) (invMixColumns ((invSubBytes (invShiftRows s)).xor k))

/-- The inverse cipher under round keys given last round first (R138). -/
def decryptBlock : List Block → Block → Block
  | [], s => s
  | k :: rks, s => decryptRounds rks (s.xor k)

/-- `AES_Enc(K, X)` (R137). -/
def aesEnc (ks : KeySize) (K : List Byte) (X : Block) : Block := encryptBlock (roundKeys ks K) X

/-- `AES_Dec(K, Y)` (R138). -/
def aesDec (ks : KeySize) (K : List Byte) (Y : Block) : Block := decryptBlock (roundKeys ks K).reverse Y

end Sys2Proof.Machine
end

