-- ==== Sys2Proof/Machine/Cbc.lean ====
section
/-! DEFINITION. Cipher-block chaining (41_secure_transform.md R114, R115) and the transform of the payload region of a secure
frame (R117, R118). -/

namespace Sys2Proof.Machine

/-- `CBC_Encrypt` over blocks: `C_j = AES_Enc(K, P_j xor C_{j-1})`, `C_0` the IV (R114). -/
def cbcEncrypt (enc : Block → Block) : Block → List Block → List Block
  | _, [] => []
  | prev, p :: ps => enc (p.xor prev) :: cbcEncrypt enc (enc (p.xor prev)) ps

/-- `CBC_Decrypt` over blocks: `P_j = AES_Dec(K, C_j) xor C_{j-1}`, `C_{j-1}` the input ciphertext block (R115). -/
def cbcDecrypt (dec : Block → Block) : Block → List Block → List Block
  | _, [] => []
  | prev, c :: cs => (dec c).xor prev :: cbcDecrypt dec c cs

/-- The first `n` blocks of a byte string. -/
def blocksOf : Nat → List Byte → List Block
  | 0, _ => []
  | n + 1, bs => Block.ofBytes bs :: blocksOf n (bs.drop ivtSize)

/-- The bytes of blocks, in order. -/
def blockBytes : List Block → List Byte
  | [] => []
  | b :: bs => b.bytes ++ blockBytes bs

/-- The blocks of the cipher region `S_CIPHER`: 176 bytes, 11 blocks (R44, R64). -/
def cipherBlocks : Nat := 11

/-- The IV block, bytes 4..19 (R64, R67). -/
def ivBlock (B : Frame) : Block := Block.ofBytes (memRead B ivtOff ivtSize)

/-- The blocks of bytes 32..207 (R64). -/
def payloadBlocks (B : Frame) : List Block := blocksOf cipherBlocks (memRead B (off .S .payload) (cap .S))

/-- The frame `C` of R117: a verbatim copy with the payload region encrypted. -/
def encryptFrame (cfg : Config) (K : List Byte) (P : Frame) : Frame :=
  memWrite P (off .S .payload) (blockBytes (cbcEncrypt (aesEnc cfg.keySize K) (ivBlock P) (payloadBlocks P)))

/-- The frame `P` of R118: a verbatim copy with the payload region decrypted. -/
def decryptFrame (cfg : Config) (K : List Byte) (C : Frame) : Frame :=
  memWrite C (off .S .payload) (blockBytes (cbcDecrypt (aesDec cfg.keySize K) (ivBlock C) (payloadBlocks C)))

end Sys2Proof.Machine
end

