-- ==== Sys2Proof/Machine/Crc.lean ====
section
/-! DEFINITION. The cyclic redundancy check of the trailer (40_frame_codec_crc.md R93 to R95). -/

namespace Sys2Proof.Machine

/-- `reflect_n(v)`: bit `i` of the result is bit `n-1-i` of `v` (R93). -/
def reflect {n : Nat} (v : BitVec n) : BitVec n := BitVec.reverse v

/-- One step of the shift register: the feedback bit is the register's top bit xor the input bit (R93). -/
def crcBit (P : CrcParams) (reg : BitVec P.width) (b : Bool) : BitVec P.width :=
  if (reg.msb ^^ b) then (reg <<< 1) ^^^ P.poly else reg <<< 1

/-- The bits of a byte, bit 7 first. -/
def bitsOf (b : Byte) : List Bool := [7, 6, 5, 4, 3, 2, 1, 0].map b.getLsbD

/-- One byte into the register, reflected first where `refin` says so (R93). -/
def crcByte (P : CrcParams) (reg : BitVec P.width) (b : Byte) : BitVec P.width :=
  (bitsOf (if P.refin then reflect b else b)).foldl (crcBit P) reg

/-- The register after the bytes of `D`, from `reg` on (R93). The register is a numeral again before each byte, so that an
evaluation over a whole frame does not pile up 208 unevaluated bytes. -/
def crcRegister (P : CrcParams) (reg : BitVec P.width) : List Byte → BitVec P.width
  | [] => reg
  | b :: bs =>
    match (crcByte P reg b).toNat with
    | 0 => crcRegister P 0 bs
    | n + 1 => crcRegister P (BitVec.ofNat P.width (n + 1)) bs

/-- `crc(D, P)` (R93). -/
def crc (P : CrcParams) (D : List Byte) : BitVec P.width :=
  let reg := crcRegister P P.init D
  (if P.refout then reflect reg else reg) ^^^ P.xorout

/-- `crc_of(B)`: the CRC of bytes 0..207, zero-extended to the 32-bit field (R95). -/
def crcOf (cfg : Config) (B : Frame) : BitVec 32 := (crc cfg.crc (memRead B 0 208)).setWidth 32

end Sys2Proof.Machine
end

