-- ==== Sys2Proof/Machine/Flags.lean ====
section
/-! DEFINITION. The block "has no status flags, no condition codes and no sticky error bits" (10_state.md R25): what other
hardware keeps in flags is here the status an operation returns. This file classifies statuses (60_exceptions.md R200) and
events (R203). -/

namespace Sys2Proof.Machine

/-- A status without the value it records. -/
def Status.kind : Status → StatusKind
  | .ok => .ok
  | .payloadTooLarge _ => .payloadTooLarge
  | .noKey => .noKey
  | .malformedFrame _ => .malformedFrame
  | .unknownProtocol => .unknownProtocol
  | .unaddressedFrame => .unaddressedFrame
  | .argumentError => .argumentError
  | .badMagic => .badMagic
  | .badCrc _ _ => .badCrc
  | .selfTestFail _ => .selfTestFail

/-- The code number of a status (R200). -/
def StatusKind.code : StatusKind → Nat
  | .ok => 0
  | .payloadTooLarge => 1
  | .noKey => 2
  | .malformedFrame => 3
  | .unknownProtocol => 4
  | .unaddressedFrame => 5
  | .argumentError => 6
  | .badMagic => 7
  | .badCrc => 8
  | .selfTestFail => 9

/-- Whether R200 calls a status an error: `OK`, `UnknownProtocol` and `UnaddressedFrame` are not. -/
def StatusKind.isError : StatusKind → Bool
  | .ok => false
  | .unknownProtocol => false
  | .unaddressedFrame => false
  | .payloadTooLarge => true
  | .noKey => true
  | .malformedFrame => true
  | .argumentError => true
  | .badMagic => true
  | .badCrc => true
  | .selfTestFail => true

/-- The frames a list of events sends, in order (R203). -/
def sentFrames : List Event → List Frame
  | [] => []
  | .send B :: es => B :: sentFrames es
  | .chatRender _ _ _ :: es => sentFrames es
  | .pingReport _ :: es => sentFrames es
  | .diagnostic _ :: es => sentFrames es
  | .selfTestReport _ :: es => sentFrames es
  | .helpText :: es => sentFrames es
  | .dateReport _ :: es => sentFrames es
  | .commandError _ :: es => sentFrames es

end Sys2Proof.Machine
end

