-- ==== Sys2Proof/Machine/Codec.lean ====
section
/-! DEFINITION. The Frame Codec and the CRC trailer (40_frame_codec_crc.md): the functions of R90 to R97, and the meanings of
`FRAME_CLEAR`, `FRAME_BUILD`, `FRAME_VALIDATE`, `CRC_GEN` and `CRC_CHECK`. None of them reads or writes `KEY`. -/

namespace Sys2Proof.Machine

/-- The empty frame (R90). -/
def emptyFrame : Frame := Bytes.zero frameSize

/-- The frame of R91 before the capacity check: on the empty frame, `magic`, the addresses, `ivt` under S, `protocol`, `length`
and the message; reserved bytes, the payload's tail and `crc` stay zero. -/
def shapeFrame (cfg : Config) (L : Layout) (src dst proto : Byte) (msg : List Byte) (iv : Iv) : Frame :=
  let B := memWrite emptyFrame (off L .magic) cfg.magic.list
  let B := memWrite B (off L .source) [src]
  let B := memWrite B (off L .destination) [dst]
  let B := match L with
    | .F => B
    | .S => memWrite B ivtOff iv.list
  let B := memWrite B (off L .protocol) [proto]
  let B := memWrite B (off L .length) [BitVec.ofNat 8 msg.length]
  memWrite B (off L .payload) msg

/-- `FRAME_BUILD` (R91): the length check first, then the frame. -/
def buildFrame (cfg : Config) (L : Layout) (src dst proto : Byte) (msg : List Byte) (iv : Iv) : Except Status Frame :=
  if cap L < msg.length then .error (.payloadTooLarge msg.length) else .ok (shapeFrame cfg L src dst proto msg iv)

/-- `FRAME_VALIDATE` (R92): `length` against the capacity, unsigned. -/
def validateFrame (L : Layout) (B : Frame) : Status :=
  if cap L < (fldByte B L .length).toNat then .payloadTooLarge (fldByte B L .length).toNat else .ok

/-- `CRC_GEN` (R96): the trailer overwritten with the CRC of bytes 0..207. -/
def crcGenFrame (cfg : Config) (B : Frame) : Frame := memWrite B (off .F .crc) (crcBytes cfg.crcOrder (crcOf cfg B))

/-- `CRC_CHECK` (R97). -/
def crcCheckFrame (cfg : Config) (B : Frame) : Status :=
  if storedCrc cfg B = crcOf cfg B then .ok else .badCrc (storedCrc cfg B) (crcOf cfg B)

/-- The response of an operation that returns a status alone: `OK`, or the status raised. -/
def statusResponse (st : Status) : Response := if st = .ok then Response.returns .none [] else Response.raises st []

/-- The response of an operation whose result is a frame, or the status raised. -/
def frameResponse : Except Status Frame → Response
  | .ok B => Response.returns (.frame B) []
  | .error st => Response.raises st []

/-! ## Meanings -/

/-- `FRAME_CLEAR` (R90). -/
def execFrameClear (s : State) : Host.Outcome State Fault Refusal := answer s (Response.returns (.frame emptyFrame) [])

/-- `FRAME_BUILD` (R91). -/
def execFrameBuild (L : Layout) (src dst proto : Byte) (msg : List Byte) (iv : Iv) (s : State) :
    Host.Outcome State Fault Refusal :=
  answer s (frameResponse (buildFrame s.cfg L src dst proto msg iv))

/-- `FRAME_VALIDATE` (R92). -/
def execFrameValidate (L : Layout) (B : Frame) (s : State) : Host.Outcome State Fault Refusal :=
  answer s (statusResponse (validateFrame L B))

/-- `CRC_GEN` (R96). -/
def execCrcGen (B : Frame) (s : State) : Host.Outcome State Fault Refusal :=
  answer s (Response.returns (.frame (crcGenFrame s.cfg B)) [])

/-- `CRC_CHECK` (R97). -/
def execCrcCheck (B : Frame) (s : State) : Host.Outcome State Fault Refusal :=
  answer s (statusResponse (crcCheckFrame s.cfg B))

end Sys2Proof.Machine
end

