-- ==== Sys2Proof/Machine/Secure.lean ====
section
/-! DEFINITION. The Secure Frame Transform (41_secure_transform.md): the key operations R110 to R112, `ENCRYPT` and `DECRYPT`
R117, R118, the self-test R121, and their meanings. -/

namespace Sys2Proof.Machine

/-! ## The key register -/

/-- The register after a literal is set: right-padded with zeros to `KEY_SIZE`, `bits` the padded length (R110). -/
def KeyReg.ofLiteral (k : KeySize) (lit : List Byte) : KeyReg :=
  ⟨true, lit ++ zeros (k.bytes - lit.length), BitVec.ofNat 16 (8 * k.bytes)⟩

/-- `KEY_SET_LITERAL` (R110): the new register; an empty literal (`MissingArgument`) and one longer than `KEY_SIZE`
(`KeyTooLong`) are refused, and the status records neither word (DEDUCED, log entry 5). -/
def literalKey (k : KeySize) (lit : List Byte) : Except Status KeyReg :=
  if lit.length = 0 then .error .argumentError
  else if k.bytes < lit.length then .error .argumentError
  else .ok (KeyReg.ofLiteral k lit)

/-- `KEYSTORE(idx)` for an accepted index (R21). -/
def keystoreRecord (cfg : Config) (idx : Byte) : KeyRecord := if idx = 0#8 then cfg.keystore0 else cfg.keystore1

/-- `KEY_SET_INDEX` (R111): an index of 2 or more is a `BadIndex`; a stored key is normalised exactly like a literal. -/
def indexKey (cfg : Config) (idx : Byte) : Except Status KeyReg :=
  if keystoreSlots ≤ idx.toNat then .error .argumentError else literalKey cfg.keySize (keystoreRecord cfg idx).bytes

/-! ## The transform -/

/-- `ENCRYPT` (R117): fails closed without a key (R122). -/
def encryptOp (cfg : Config) (key : KeyReg) (P : Frame) : Except Status Frame :=
  if key.valid then .ok (encryptFrame cfg key.bytes P) else .error .noKey

/-- `DECRYPT` (R118). -/
def decryptOp (cfg : Config) (key : KeyReg) (C : Frame) : Except Status Frame :=
  if key.valid then .ok (decryptFrame cfg key.bytes C) else .error .noKey

/-! ## The self-test (R121) -/

/-- `SELFTEST_IV`: 00 01 .. 0F (R8). -/
def selftestIv : Iv := ⟨[0x00, 0x01, 0x02, 0x03, 0x04, 0x05, 0x06, 0x07, 0x08, 0x09, 0x0A, 0x0B, 0x0C, 0x0D, 0x0E, 0x0F], rfl⟩

/-- `SELFTEST_MSG`: the 16 ASCII bytes `LowNet self-test` (R8). -/
def selftestMsg : List Byte :=
  [0x4C, 0x6F, 0x77, 0x4E, 0x65, 0x74, 0x20, 0x73, 0x65, 0x6C, 0x66, 0x2D, 0x74, 0x65, 0x73, 0x74]

/-- The plaintext frame of the self-test: a broadcast Chat frame from this node, with its CRC. -/
def selftestFrame (cfg : Config) : Frame :=
  crcGenFrame cfg (shapeFrame cfg .S cfg.nodeAddr broadcast 0x02#8 selftestMsg selftestIv)

/-- Whether two frames differ in the `n` bytes from `o` on. -/
def differ (A B : Frame) (o n : Nat) : Bool := memRead A o n != memRead B o n

/-- The region mask of R121 for the plaintext, its encryption and the round trip. -/
def selftestMask (P C R : Frame) : BitVec 3 :=
  let mClear := differ C P 0 4 || differ R P 0 4
  let mIv := differ C P 4 16 || differ R P 4 16
  let mEnc := differ R P 20 192
  (BitVec.ofBool mEnc).setWidth 3 <<< 2 ||| (BitVec.ofBool mIv).setWidth 3 <<< 1 ||| (BitVec.ofBool mClear).setWidth 3

/-- `SELFTEST` (R121): the report is emitted, then a nonzero mask is raised. -/
def selftestResponse (cfg : Config) (key : KeyReg) : Response :=
  if key.valid then
    let P := selftestFrame cfg
    let C := encryptFrame cfg key.bytes P
    let R := decryptFrame cfg key.bytes C
    let mask := selftestMask P C R
    if mask = 0#3 then Response.returns (.mask 0#3) [.selfTestReport mask]
    else Response.raises (.selfTestFail mask) [.selfTestReport mask]
  else Response.raises .noKey []

/-! ## Meanings -/

/-- `KEY_SET_LITERAL` (R110). -/
def execKeySetLiteral (lit : List Byte) (s : State) : Host.Outcome State Fault Refusal :=
  writeKey s (literalKey s.cfg.keySize lit)

/-- `KEY_SET_INDEX` (R111). -/
def execKeySetIndex (idx : Byte) (s : State) : Host.Outcome State Fault Refusal := writeKey s (indexKey s.cfg idx)

/-- `KEY_CLEAR` (R112): the absent state, `OK` always. -/
def execKeyClear (s : State) : Host.Outcome State Fault Refusal :=
  writeKey s (.ok (KeyReg.absent s.cfg.keySize))

/-- `ENCRYPT` (R117). -/
def execEncrypt (P : Frame) (s : State) : Host.Outcome State Fault Refusal :=
  answer s (frameResponse (encryptOp s.cfg s.key P))

/-- `DECRYPT` (R118). -/
def execDecrypt (C : Frame) (s : State) : Host.Outcome State Fault Refusal :=
  answer s (frameResponse (decryptOp s.cfg s.key C))

/-- `SELFTEST` (R121). -/
def execSelftest (s : State) : Host.Outcome State Fault Refusal := answer s (selftestResponse s.cfg s.key)

end Sys2Proof.Machine
end

