-- ==== Sys2Proof/Machine/Transmit.lean ====
section
/-! DEFINITION. The transmit path `TX_FRAME` (43_dispatcher.md R161, R162), the send operations of the sub-protocols `SHOUT`,
`TELL`, `PING_SEND` (44_subprotocols.md R170, R171, R173), and their meanings. -/

namespace Sys2Proof.Machine

/-- `PROTO_CHAT` (R7). -/
abbrev protoChat : Byte := 0x02#8
/-- `PROTO_PING` (R7). -/
abbrev protoPing : Byte := 0x03#8
/-- `PROTO_TIME` (R7). -/
abbrev protoTime : Byte := 0x01#8

/-- The layout in force: S with a key, F without (R161). -/
def layoutInForce (key : KeyReg) : Layout := if key.valid then .S else .F

/-- The bytes that go on the air for a built frame: its CRC first, then the cipher if a key is present (R162, R238). -/
def wireFrame (cfg : Config) (key : KeyReg) (B : Frame) : Frame :=
  if key.valid then encryptFrame cfg key.bytes (crcGenFrame cfg B) else crcGenFrame cfg B

/-- `TX_FRAME` (R162): exactly one `send`, or `PayloadTooLarge` and none. -/
def transmit (s : State) (src dst proto : Byte) (msg : List Byte) (iv : Iv) : Response :=
  match buildFrame s.cfg (layoutInForce s.key) src dst proto msg iv with
  | .ok B => Response.returns .none [.send (wireFrame s.cfg s.key B)]
  | .error st => Response.raises st []

/-- The packet of a probe: `timestamp_out` is `NOW`, `timestamp_back` unset, `origin` this node (R173). -/
def probePacket (s : State) : List Byte := pingPack s.now unsetTime s.cfg.nodeAddr

/-! ## Meanings -/

/-- `TX_FRAME` (R162). -/
def execTxFrame (src dst proto : Byte) (msg : List Byte) (iv : Iv) (s : State) : Host.Outcome State Fault Refusal :=
  answer s (transmit s src dst proto msg iv)

/-- `SHOUT` (R170). -/
def execShout (msg : List Byte) (iv : Iv) (s : State) : Host.Outcome State Fault Refusal :=
  answer s (transmit s s.cfg.nodeAddr broadcast protoChat msg iv)

/-- `TELL` (R171). -/
def execTell (msg : List Byte) (dst : Byte) (iv : Iv) (s : State) : Host.Outcome State Fault Refusal :=
  answer s (transmit s s.cfg.nodeAddr dst protoChat msg iv)

/-- `PING_SEND` (R173). -/
def execPingSend (target : Byte) (iv : Iv) (s : State) : Host.Outcome State Fault Refusal :=
  answer s (transmit s s.cfg.nodeAddr target protoPing (probePacket s) iv)

end Sys2Proof.Machine
end

