-- ==== Sys2Proof/Machine/Dispatcher.lean ====
section
/-! DEFINITION. The Protocol Dispatcher, the classification by address in the handlers, and the receive path (43_dispatcher.md
R150 to R160, 44_subprotocols.md R172, R174, R175), with the meanings of `DISPATCH`, `CHAT_RX`, `PING_RX`, `RX_FRAME`. -/

namespace Sys2Proof.Machine

/-- A handler drops a frame of inconsistent length: the diagnostic is emitted, then the status raised (R153, R155). -/
def malformed (n : Byte) : Response := Response.raises (.malformedFrame n) [.diagnostic .malformedFrame]

/-- `UnaddressedFrame`: the frame "is for another node on the shared medium"; silently ignored (R153, R155). -/
def unaddressed : Response := Response.raises .unaddressedFrame []

/-! ## Chat -/

/-- `chat_text` (R154): the first `n` payload bytes with a terminator after them, up to the first 00. -/
def chatText (L : Layout) (B : Frame) (n : Nat) : List Byte :=
  (memRead B (off L .payload) n ++ [0x00#8]).takeWhile (· != 0x00#8)

/-- The class of a Chat frame by its destination; `none` where it is for another node (R153). -/
def chatClass (nodeAddr : Byte) (dst : Byte) : Option ChatClass :=
  if dst = nodeAddr then some .direct else if dst = broadcast then some .broadcast else none

/-- `CHAT_RX` (R153). -/
def chatRx (cfg : Config) (L : Layout) (B : Frame) : Response :=
  let n := fldByte B L .length
  if cap L < n.toNat then malformed n
  else
    match chatClass cfg.nodeAddr (fldByte B L .destination) with
    | none => unaddressed
    | some cls =>
      let text := chatText L B n.toNat
      Response.returns (.chat cls (fldByte B L .source) text) [.chatRender cls (fldByte B L .source) text]

/-! ## Ping -/

/-- The class of a Ping frame by its destination, source and `origin` (R155). -/
def pingClass (nodeAddr dst src origin : Byte) : Option PingClass :=
  if dst = nodeAddr ∧ origin ≠ nodeAddr then some .probeToUs
  else if src = nodeAddr ∨ dst = nodeAddr then some .ownResponse
  else none

/-- The packet of the response: `timestamp_back` is `NOW`, every other byte as received (R174). -/
def responsePacket (s : State) (L : Layout) (B : Frame) : List Byte := overlay (pingPacket L B) 5 (timePack s.now)

/-- The events of `ping_respond` (R174): the response goes to `origin`. -/
def pingRespond (s : State) (L : Layout) (B : Frame) (iv : Iv) : List Event :=
  (transmit s s.cfg.nodeAddr (pingOrigin L B) protoPing (responsePacket s L B) iv).events

/-- The events of `ping_report` (R175): the difference of the two stamps the packet carries. -/
def pingReport (L : Layout) (B : Frame) : List Event :=
  [.pingReport (rttMs (pingOut (pingPacket L B)) (pingBack (pingPacket L B)))]

/-- `PING_RX` (R155). -/
def pingRx (s : State) (L : Layout) (B : Frame) (iv : Iv) : Response :=
  let n := fldByte B L .length
  if n.toNat < pingPacketSize ∨ cap L < n.toNat then malformed n
  else
    match pingClass s.cfg.nodeAddr (fldByte B L .destination) (fldByte B L .source) (pingOrigin L B) with
    | some .probeToUs => Response.returns (.ping .probeToUs) (pingRespond s L B iv)
    | some .ownResponse => Response.returns (.ping .ownResponse) (pingReport L B)
    | none => unaddressed

/-! ## The dispatcher -/

/-- A Chat frame is routed to the Chat handler (R150). -/
def routeChat (s : State) (L : Layout) (B : Frame) : Response := (chatRx s.cfg L B).routed .chat

/-- A Ping frame is routed to the Ping handler (R150). -/
def routePing (s : State) (L : Layout) (B : Frame) (iv : Iv) : Response := (pingRx s L B iv).routed .ping

/-- A Time frame is left to the external time-sync collaborator: `OK`, and nothing happens (R157). -/
def routeTime : Response := (Response.returns .none []).routed .timeExternal

/-- A Reserved or unrecognized frame is silently dropped: no handler, no event (R150, R71). -/
def routeDropped : Response := (Response.raises .unknownProtocol []).routed .dropped

/-- `DISPATCH` (R150). -/
def dispatchFrame (s : State) (L : Layout) (B : Frame) (iv : Iv) : Response :=
  let p := fldByte B L .protocol
  if p = protoChat then routeChat s L B
  else if p = protoPing then routePing s L B iv
  else if p = protoTime then routeTime
  else routeDropped

/-! ## The receive path -/

/-- The plaintext of a received block: decrypted if a key is present (R160). -/
def plainFrame (cfg : Config) (key : KeyReg) (W : Frame) : Frame :=
  if key.valid then decryptFrame cfg key.bytes W else W

/-- `RX_FRAME` (R160): `magic`, then the CRC of the plaintext, then the dispatcher. -/
def receiveFrame (s : State) (W : Frame) (iv : Iv) : Response :=
  if memRead W 0 2 ≠ s.cfg.magic.list then Response.raises .badMagic []
  else
    let B := plainFrame s.cfg s.key W
    match crcCheckFrame s.cfg B with
    | .ok => dispatchFrame s (layoutInForce s.key) B iv
    | st => Response.raises st []

/-! ## Meanings -/

/-- `DISPATCH` (R150). -/
def execDispatch (L : Layout) (B : Frame) (iv : Iv) (s : State) : Host.Outcome State Fault Refusal :=
  answer s (dispatchFrame s L B iv)

/-- `CHAT_RX` (R153). -/
def execChatRx (L : Layout) (B : Frame) (s : State) : Host.Outcome State Fault Refusal := answer s (chatRx s.cfg L B)

/-- `PING_RX` (R155). -/
def execPingRx (L : Layout) (B : Frame) (iv : Iv) (s : State) : Host.Outcome State Fault Refusal :=
  answer s (pingRx s L B iv)

/-- `RX_FRAME` (R160). -/
def execRxFrame (W : Frame) (iv : Iv) (s : State) : Host.Outcome State Fault Refusal := answer s (receiveFrame s W iv)

end Sys2Proof.Machine
end

