-- ==== Sys2Proof/Machine/Proto.lean ====
section
/-! DEFINITION. The meanings of the protocol-id map (30_encoding.md R70, R83): what the dispatcher does with a frame of each
class of the `protocol` byte under each layout. One definition per table row, each over the routes of 43_dispatcher.md. -/

namespace Sys2Proof.Machine

/-! ## Format `PROTO_F` -/

/-- `protocol` 0x00 under layout F: silently dropped (R150). -/
def execProtoReservedF (_B : Frame) (_iv : Iv) (s : State) : Host.Outcome State Fault Refusal :=
  answer s routeDropped

/-- `protocol` 0x01 under layout F: left to the external collaborator (R157). -/
def execProtoTimeF (_B : Frame) (_iv : Iv) (s : State) : Host.Outcome State Fault Refusal :=
  answer s routeTime

/-- `protocol` 0x02 under layout F: routed to the Chat handler (R153). -/
def execProtoChatF (B : Frame) (_iv : Iv) (s : State) : Host.Outcome State Fault Refusal :=
  answer s (routeChat s .F B)

/-- `protocol` 0x03 under layout F: routed to the Ping handler (R155). -/
def execProtoPingF (B : Frame) (iv : Iv) (s : State) : Host.Outcome State Fault Refusal :=
  answer s (routePing s .F B iv)

/-- `protocol` 0x04..0x07 under layout F: silently dropped (R150). -/
def execProtoUnrecognized04F (_B : Frame) (_iv : Iv) (s : State) : Host.Outcome State Fault Refusal :=
  answer s routeDropped

/-- `protocol` 0x08..0x0F under layout F: silently dropped (R150). -/
def execProtoUnrecognized08F (_B : Frame) (_iv : Iv) (s : State) : Host.Outcome State Fault Refusal :=
  answer s routeDropped

/-- `protocol` 0x10..0x1F under layout F: silently dropped (R150). -/
def execProtoUnrecognized10F (_B : Frame) (_iv : Iv) (s : State) : Host.Outcome State Fault Refusal :=
  answer s routeDropped

/-- `protocol` 0x20..0x3F under layout F: silently dropped (R150). -/
def execProtoUnrecognized20F (_B : Frame) (_iv : Iv) (s : State) : Host.Outcome State Fault Refusal :=
  answer s routeDropped

/-- `protocol` 0x40..0x7F under layout F: silently dropped (R150). -/
def execProtoUnrecognized40F (_B : Frame) (_iv : Iv) (s : State) : Host.Outcome State Fault Refusal :=
  answer s routeDropped

/-- `protocol` 0x80..0xFF under layout F: silently dropped (R150). -/
def execProtoUnrecognized80F (_B : Frame) (_iv : Iv) (s : State) : Host.Outcome State Fault Refusal :=
  answer s routeDropped

/-! ## Format `PROTO_S` -/

/-- `protocol` 0x00 under layout S: silently dropped (R150). -/
def execProtoReservedS (_B : Frame) (_iv : Iv) (s : State) : Host.Outcome State Fault Refusal :=
  answer s routeDropped

/-- `protocol` 0x01 under layout S: left to the external collaborator (R157). -/
def execProtoTimeS (_B : Frame) (_iv : Iv) (s : State) : Host.Outcome State Fault Refusal :=
  answer s routeTime

/-- `protocol` 0x02 under layout S: routed to the Chat handler (R153). -/
def execProtoChatS (B : Frame) (_iv : Iv) (s : State) : Host.Outcome State Fault Refusal :=
  answer s (routeChat s .S B)

/-- `protocol` 0x03 under layout S: routed to the Ping handler (R155). -/
def execProtoPingS (B : Frame) (iv : Iv) (s : State) : Host.Outcome State Fault Refusal :=
  answer s (routePing s .S B iv)

/-- `protocol` 0x04..0x07 under layout S: silently dropped (R150). -/
def execProtoUnrecognized04S (_B : Frame) (_iv : Iv) (s : State) : Host.Outcome State Fault Refusal :=
  answer s routeDropped

/-- `protocol` 0x08..0x0F under layout S: silently dropped (R150). -/
def execProtoUnrecognized08S (_B : Frame) (_iv : Iv) (s : State) : Host.Outcome State Fault Refusal :=
  answer s routeDropped

/-- `protocol` 0x10..0x1F under layout S: silently dropped (R150). -/
def execProtoUnrecognized10S (_B : Frame) (_iv : Iv) (s : State) : Host.Outcome State Fault Refusal :=
  answer s routeDropped

/-- `protocol` 0x20..0x3F under layout S: silently dropped (R150). -/
def execProtoUnrecognized20S (_B : Frame) (_iv : Iv) (s : State) : Host.Outcome State Fault Refusal :=
  answer s routeDropped

/-- `protocol` 0x40..0x7F under layout S: silently dropped (R150). -/
def execProtoUnrecognized40S (_B : Frame) (_iv : Iv) (s : State) : Host.Outcome State Fault Refusal :=
  answer s routeDropped

/-- `protocol` 0x80..0xFF under layout S: silently dropped (R150). -/
def execProtoUnrecognized80S (_B : Frame) (_iv : Iv) (s : State) : Host.Outcome State Fault Refusal :=
  answer s routeDropped

end Sys2Proof.Machine
end

