-- ==== Sys2Proof/Machine/Dispatch.lean ====
section
/-! DEFINITION. The dispatch of an instruction to its meaning: one arm per constructor. -/

namespace Sys2Proof.Machine

/-- What an instruction does. -/
def exec (i : Instr) (s : State) : Host.Outcome State Fault Refusal :=
  match i with
  | .protoReservedF B iv => Sys2Proof.Machine.execProtoReservedF B iv s
  | .protoTimeF B iv => Sys2Proof.Machine.execProtoTimeF B iv s
  | .protoChatF B iv => Sys2Proof.Machine.execProtoChatF B iv s
  | .protoPingF B iv => Sys2Proof.Machine.execProtoPingF B iv s
  | .protoUnrecognized04F B iv => Sys2Proof.Machine.execProtoUnrecognized04F B iv s
  | .protoUnrecognized08F B iv => Sys2Proof.Machine.execProtoUnrecognized08F B iv s
  | .protoUnrecognized10F B iv => Sys2Proof.Machine.execProtoUnrecognized10F B iv s
  | .protoUnrecognized20F B iv => Sys2Proof.Machine.execProtoUnrecognized20F B iv s
  | .protoUnrecognized40F B iv => Sys2Proof.Machine.execProtoUnrecognized40F B iv s
  | .protoUnrecognized80F B iv => Sys2Proof.Machine.execProtoUnrecognized80F B iv s
  | .protoReservedS B iv => Sys2Proof.Machine.execProtoReservedS B iv s
  | .protoTimeS B iv => Sys2Proof.Machine.execProtoTimeS B iv s
  | .protoChatS B iv => Sys2Proof.Machine.execProtoChatS B iv s
  | .protoPingS B iv => Sys2Proof.Machine.execProtoPingS B iv s
  | .protoUnrecognized04S B iv => Sys2Proof.Machine.execProtoUnrecognized04S B iv s
  | .protoUnrecognized08S B iv => Sys2Proof.Machine.execProtoUnrecognized08S B iv s
  | .protoUnrecognized10S B iv => Sys2Proof.Machine.execProtoUnrecognized10S B iv s
  | .protoUnrecognized20S B iv => Sys2Proof.Machine.execProtoUnrecognized20S B iv s
  | .protoUnrecognized40S B iv => Sys2Proof.Machine.execProtoUnrecognized40S B iv s
  | .protoUnrecognized80S B iv => Sys2Proof.Machine.execProtoUnrecognized80S B iv s
  | .frameClear => Sys2Proof.Machine.execFrameClear s
  | .frameBuild L src dst proto msg iv => Sys2Proof.Machine.execFrameBuild L src dst proto msg iv s
  | .frameValidate L B => Sys2Proof.Machine.execFrameValidate L B s
  | .crcGen B => Sys2Proof.Machine.execCrcGen B s
  | .crcCheck B => Sys2Proof.Machine.execCrcCheck B s
  | .keySetLiteral lit => Sys2Proof.Machine.execKeySetLiteral lit s
  | .keySetIndex idx => Sys2Proof.Machine.execKeySetIndex idx s
  | .keyClear => Sys2Proof.Machine.execKeyClear s
  | .encrypt P => Sys2Proof.Machine.execEncrypt P s
  | .decrypt C => Sys2Proof.Machine.execDecrypt C s
  | .selftest => Sys2Proof.Machine.execSelftest s
  | .dispatch L B iv => Sys2Proof.Machine.execDispatch L B iv s
  | .chatRx L B => Sys2Proof.Machine.execChatRx L B s
  | .pingRx L B iv => Sys2Proof.Machine.execPingRx L B iv s
  | .rxFrame W iv => Sys2Proof.Machine.execRxFrame W iv s
  | .txFrame src dst proto msg iv => Sys2Proof.Machine.execTxFrame src dst proto msg iv s
  | .shout msg iv => Sys2Proof.Machine.execShout msg iv s
  | .tell msg dst iv => Sys2Proof.Machine.execTell msg dst iv s
  | .pingSend target iv => Sys2Proof.Machine.execPingSend target iv s

end Sys2Proof.Machine
end

