-- ==== Sys2Proof/Machine/Surface.lean ====
section
/-! DEFINITION. The command surface (45_command_surface.md R190 to R198): the classification of a line, the parsing of its
arguments, and what is reported to the user. Running the operation a line asks for is in Serve.lean. -/

namespace Sys2Proof.Machine

/-- The space character. -/
abbrev space : Byte := 0x20#8
/-- `/ping` in ASCII. -/
def pingWord : List Byte := [0x2F, 0x70, 0x69, 0x6E, 0x67]
/-- `/help` in ASCII. -/
def helpWord : List Byte := [0x2F, 0x68, 0x65, 0x6C, 0x70]
/-- `/date` in ASCII. -/
def dateWord : List Byte := [0x2F, 0x64, 0x61, 0x74, 0x65]
/-- `@` in ASCII. -/
abbrev atSign : Byte := 0x40#8

/-- The bytes before the first space, or all of them (R190). -/
def firstWord (bs : List Byte) : List Byte := bs.takeWhile (· != space)
/-- The bytes from the first space on. -/
def afterWord (bs : List Byte) : List Byte := bs.dropWhile (· != space)

/-! ## Hexadecimal (R197) -/

/-- `hexval`: the value of a hexadecimal digit of either case. -/
def hexVal (c : Byte) : Option Nat :=
  if 0x30 ≤ c.toNat ∧ c.toNat ≤ 0x39 then some (c.toNat - 0x30)
  else if 0x41 ≤ c.toNat ∧ c.toNat ≤ 0x46 then some (c.toNat - 0x41 + 10)
  else if 0x61 ≤ c.toNat ∧ c.toNat ≤ 0x66 then some (c.toNat - 0x61 + 10)
  else none

/-- The byte of two hexadecimal digits. -/
def hexPair (a b : Byte) : Option Byte :=
  match hexVal a, hexVal b with
  | some x, some y => some (BitVec.ofNat 8 (16 * x + y))
  | _, _ => none

/-- `parse_hex_address_token`: one or two hexadecimal digits and nothing else. -/
def parseHexToken : List Byte → Option Byte
  | [a] => (hexVal a).map (BitVec.ofNat 8)
  | [a, b] => hexPair a b
  | _ => none

/-- Pairs of hexadecimal digits. -/
def hexPairs : List Byte → Option (List Byte)
  | [] => some []
  | [_] => none
  | a :: b :: r =>
    match hexPair a b, hexPairs r with
    | some x, some xs => some (x :: xs)
    | _, _ => none

/-- `parse_hex_bytes`: an even, nonzero number of hexadecimal digits. -/
def parseHexBytes (tok : List Byte) : Option (List Byte) := if tok = [] then none else hexPairs tok

/-! ## Lines -/

/-- `/ping <hex-address>` (R191): `rest` is what follows the word, empty or beginning with its space. -/
def pingCommand (rest : List Byte) (iv : Iv) : Command :=
  match rest with
  | [] => .malformed
  | _ :: s =>
    match parseHexToken (firstWord s) with
    | some a => .op (.pingSend a iv)
    | none => .malformed

/-- `@<hex-address> <message>` (R192): `rest` is what follows the `@`. -/
def tellCommand (rest : List Byte) (iv : Iv) : Command :=
  match afterWord rest with
  | [] => .malformed
  | _ :: tail =>
    match parseHexToken (firstWord rest) with
    | none => .malformed
    | some a => if tail = [] then .malformed else .op (.tell tail a iv)

/-- The key command (R195): an argument `0` or `1` is a store index, every other a literal in hexadecimal. -/
def keyCommand (rest : List Byte) : Command :=
  match rest with
  | [] => .malformed
  | _ :: s =>
    if firstWord s = [] then .malformed
    else if firstWord s = [0x30#8] then .op (.keySetIndex 0x00#8)
    else if firstWord s = [0x31#8] then .op (.keySetIndex 0x01#8)
    else
      match parseHexBytes (firstWord s) with
      | some lit => .op (.keySetLiteral lit)
      | none => .malformed

/-- The first rule of R190 that applies to a line. The three key words are compared in the order R195, R196 give them (DESIGN CHOICE, log
entry 6). -/
def parseLine (cfg : Config) (line : List Byte) (iv : Iv) : Command :=
  if line = [] then .nothing
  else if firstWord line = pingWord then pingCommand (afterWord line) iv
  else if firstWord line = helpWord then .help
  else if firstWord line = dateWord then .date
  else if firstWord line = cfg.keyWord then keyCommand (afterWord line)
  else if firstWord line = cfg.keyClearWord then .op .keyClear
  else if firstWord line = cfg.selftestWord then .op .selftest
  else if line.headD 0x00#8 = atSign then tellCommand (line.drop 1) iv
  else .op (.shout line iv)

/-! ## Reports -/

/-- A response with an event after its own. -/
def Response.withEvent (r : Response) (e : Event) : Response := { r with events := r.events ++ [e] }

/-- A status other than `OK` that comes back to a line is reported to the user (R198, 95_test_vectors.md P5; DESIGN CHOICE,
log entry 7). -/
def State.reported (s : State) : State :=
  match s.resp with
  | none => s
  | some r =>
    if r.status = .ok then s
    else { s with resp := some (r.withEvent (.commandError r.status)), log := s.log ++ [.commandError r.status] }

/-- `/help` (R194). -/
def helpResponse : Response := Response.returns .none [.helpText]
/-- `/date` (R194): `NOW`, read once. -/
def dateResponse (s : State) : Response := Response.returns .none [.dateReport s.now]
/-- An `ArgumentError` of the surface itself (R198). -/
def surfaceError : Response := Response.raises .argumentError [.commandError .argumentError]

end Sys2Proof.Machine
end

