-- ==== Sys2Proof/Machine/Serve.lean ====
section
/-! DEFINITION. Serving one request of the agents: fetching the word of an operation, the receive event (60_exceptions.md R204),
a command line (45_command_surface.md), the registration of the callback (70_reset_and_hazards.md R232) and the reset transition
(R230). One request is served whole before the next (20_memory.md R50). -/

namespace Sys2Proof.Machine

/-- A request for the operation a word stands for; a word that stands for none is refused (R82, R81). -/
def serveWord (fmt : Format) (bytes : List Byte) (s : State) : Host.Outcome State Fault Refusal :=
  match decode fmt bytes with
  | .ok i => exec i s
  | .error e => .refused (.undecodable e)

/-- The receive event runs `RX_FRAME` to completion; before the callback is registered the frame is lost (R204, R232;
DEDUCED, log entry 10). -/
def serveReceive (W : Frame) (iv : Iv) (s : State) : Host.Outcome State Fault Refusal :=
  if s.callback then exec (.rxFrame W iv) s else .next s.noReply

/-- Registering the callback, once (R232, 93 U24). -/
def serveRegister (s : State) : Host.Outcome State Fault Refusal :=
  if s.callback then .refused .secondCallback else .next s.registered

/-- The outcome of a line's operation, with its status reported. -/
def reportOutcome : Host.Outcome State Fault Refusal → Host.Outcome State Fault Refusal
  | .next s => .next s.reported
  | .fault r => .fault r
  | .refused r => .refused r

/-- What a parsed line does (R190 to R198). -/
def runCommand (c : Command) (s : State) : Host.Outcome State Fault Refusal :=
  match c with
  | .nothing => .next s.noReply
  | .op i => reportOutcome (exec i s)
  | .help => answer s helpResponse
  | .date => answer s (dateResponse s)
  | .malformed => answer s surfaceError

/-- One request. -/
def serve (b : Body) (s : State) : Host.Outcome State Fault Refusal :=
  match b with
  | .word fmt bytes => serveWord fmt bytes s
  | .receive W iv => serveReceive W iv s
  | .line text iv => runCommand (parseLine s.cfg text iv) s
  | .registerCallback => serveRegister s
  | .powerUp => .next s.powerUp

/-- The state in which the request at the head of the inbox is served: it is taken off, and `NOW` is its clock (R21). -/
def State.taking (s : State) (r : Request) (rest : List Request) : State := { s with inbox := rest, now := r.now }

/-- One step: the next request in the total order of R50; with none, the block is idle and keeps `KEY` (R213). -/
def stepOnce (s : State) : Host.Outcome State Fault Refusal :=
  match s.inbox with
  | [] => .next s
  | r :: rest => serve r.body (s.taking r rest)

/-- A word put in front of every other request, at the clock's present answer. -/
def requestWord (s : State) (fmt : Format) (bytes : List Byte) : State :=
  { s with inbox := ⟨.word fmt bytes, s.now⟩ :: s.inbox }

end Sys2Proof.Machine
end

