-- ==== Sys2Proof/Machine/Step.lean ====
section
/-! DEFINITION. The step of the machine, and a bare table word placed where the step takes its next instruction. -/

namespace Sys2Proof.Machine

/-- One step of the machine. -/
def step (s : State) : Host.Outcome State Fault Refusal := stepOnce s

/-- `s` with the instruction of a bare table word as its next request (log entries 1 and 4). -/
def State.withFetchWord (s : State) (nbits w : Nat) : State :=
  requestWord s (tableWord nbits w).1 (tableWord nbits w).2

end Sys2Proof.Machine
end

