-- ==== Sys2Proof/Safety.lean ====
section
/-! DEFINITION. What counts as a good state and a good answer, in the terms the statements use. -/

namespace Sys2Proof.Machine

/-! ## Answers -/

/-- Instruction `i` completes in `s` with response `r`: the response is returned, its events are emitted after all earlier ones,
and everything else (`KEY`, the callback, the parameters, the clock, the requests to come) is as before. -/
def Answers (i : Instr) (s : State) (r : Response) : Prop :=
  exec i s = .next { s with seq := .dispatchIdle, resp := some r, log := s.log ++ r.events }

/-- Instruction `i` completes in `s` with response `r` and leaves the key register as `k`; everything else as before. -/
def AnswersWritingKey (i : Instr) (s : State) (k : KeyReg) (r : Response) : Prop :=
  exec i s = .next { s with key := k, seq := .dispatchIdle, resp := some r, log := s.log ++ r.events }

/-- `OK`, a value, and events; no route. -/
def okay (v : Value) (evs : List Event) : Response := ⟨.ok, none, v, evs⟩

/-- A status other than `OK`: no value, no route. -/
def failed (st : Status) (evs : List Event) : Response := ⟨st, none, .none, evs⟩

/-- The state after a request served at clock `now` before the requests `rest`: it returned `resp` and emitted `evs`, the
dispatcher is idle again, and everything else (`KEY`, the callback, the parameters) is as before. -/
def State.after (s : State) (now : TimeValue) (rest : List Request) (resp : Option Response) (evs : List Event) : State :=
  { s with seq := .dispatchIdle, now := now, inbox := rest, resp := resp, log := s.log ++ evs }

/-- The state after a line whose status `st` is reported to the user (R198): nothing but the report happened. -/
def State.complaining (s : State) (now : TimeValue) (rest : List Request) (st : Status) : State :=
  s.after now rest (some (failed st [.commandError st])) [.commandError st]

/-- The state in which a request at clock `now` before the requests `rest` is served. -/
def State.serving (s : State) (now : TimeValue) (rest : List Request) : State := { s with inbox := rest, now := now }

/-! ## Invariants -/

/-- `KEY` is in one of R23's legal values: `KEY_SIZE` bytes; `bits` is `8 * KEY_SIZE` when present; the canonical absent state
when absent. -/
def KeyReg.Canonical (k : KeySize) (r : KeyReg) : Prop :=
  r.bytes.length = k.bytes ∧ (r.valid = true → r.bits = BitVec.ofNat 16 (8 * k.bytes)) ∧
    (r.valid = false → r.bytes = zeros k.bytes ∧ r.bits = 0#16)

/-- Every frame the block has sent starts with `MAGIC` (R62, R91). -/
def State.SentCarryMagic (s : State) : Prop := ∀ B ∈ sentFrames s.log, memRead B 0 2 = s.cfg.magic.list

/-! ## Which instruction may do what -/

/-- The operations that write `KEY` (R24). -/
def mayWriteKey : Instr → Bool
  | .keySetLiteral _ => true
  | .keySetIndex _ => true
  | .keyClear => true
  | _ => false

/-- The operations that can emit a `send` (R203): `TX_FRAME` and its users, `PING_RX`, which may answer, and what reaches it. -/
def maySend : Instr → Bool
  | .txFrame _ _ _ _ _ => true
  | .shout _ _ => true
  | .tell _ _ _ => true
  | .pingSend _ _ => true
  | .pingRx _ _ _ => true
  | .dispatch _ _ _ => true
  | .rxFrame _ _ => true
  | .protoPingF _ _ => true
  | .protoPingS _ _ => true
  | _ => false

/-- The statuses a frame routed to a handler can have: R202's rows `CHAT_RX` and `PING_RX`. -/
def handlerStatus : StatusKind → Bool
  | .ok => true
  | .malformedFrame => true
  | .unaddressedFrame => true
  | _ => false

/-- R202's table, the row of each operation; a row of the protocol-id map returns what `DISPATCH` returns for its class. -/
def statusAllowed : Instr → StatusKind → Bool
  | .frameClear, k => k == .ok
  | .frameBuild _ _ _ _ _ _, k => k == .ok || k == .payloadTooLarge
  | .frameValidate _ _, k => k == .ok || k == .payloadTooLarge
  | .crcGen _, k => k == .ok
  | .crcCheck _, k => k == .ok || k == .badCrc
  | .keySetLiteral _, k => k == .ok || k == .argumentError
  | .keySetIndex _, k => k == .ok || k == .argumentError
  | .keyClear, k => k == .ok
  | .encrypt _, k => k == .ok || k == .noKey
  | .decrypt _, k => k == .ok || k == .noKey
  | .selftest, k => k == .ok || k == .noKey || k == .selfTestFail
  | .dispatch _ _ _, k => handlerStatus k || k == .unknownProtocol
  | .chatRx _ _, k => handlerStatus k
  | .pingRx _ _ _, k => handlerStatus k
  | .rxFrame _ _, k => handlerStatus k || k == .unknownProtocol || k == .badMagic || k == .badCrc
  | .txFrame _ _ _ _ _, k => k == .ok || k == .payloadTooLarge
  | .shout _ _, k => k == .ok || k == .payloadTooLarge
  | .tell _ _ _, k => k == .ok || k == .payloadTooLarge
  | .pingSend _ _, k => k == .ok
  | .protoTimeF _ _, k => k == .ok
  | .protoTimeS _ _, k => k == .ok
  | .protoChatF _ _, k => handlerStatus k
  | .protoChatS _ _, k => handlerStatus k
  | .protoPingF _ _, k => handlerStatus k
  | .protoPingS _ _, k => handlerStatus k
  | .protoReservedF _ _, k => k == .unknownProtocol
  | .protoReservedS _ _, k => k == .unknownProtocol
  | .protoUnrecognized04F _ _, k => k == .unknownProtocol
  | .protoUnrecognized08F _ _, k => k == .unknownProtocol
  | .protoUnrecognized10F _ _, k => k == .unknownProtocol
  | .protoUnrecognized20F _ _, k => k == .unknownProtocol
  | .protoUnrecognized40F _ _, k => k == .unknownProtocol
  | .protoUnrecognized80F _ _, k => k == .unknownProtocol
  | .protoUnrecognized04S _ _, k => k == .unknownProtocol
  | .protoUnrecognized08S _ _, k => k == .unknownProtocol
  | .protoUnrecognized10S _ _, k => k == .unknownProtocol
  | .protoUnrecognized20S _ _, k => k == .unknownProtocol
  | .protoUnrecognized40S _ _, k => k == .unknownProtocol
  | .protoUnrecognized80S _ _, k => k == .unknownProtocol

/-! ## Terms of the rules -/

/-- The `n` bytes of a number written in hexadecimal, the first digits first: the form in which the rules write byte strings. -/
def hexString : Nat → Nat → List Byte
  | 0, _ => []
  | n + 1, v => BitVec.ofNat 8 (v / 256 ^ n) :: hexString n v

/-- The block of sixteen bytes written so. -/
def hexBlock (v : Nat) : Block := Block.ofBytes (hexString ivtSize v)

/-- The bytes of the word `w[i]` of a key expansion (R136). -/
def expansionAt (ks : KeySize) (K : List Byte) (i : Nat) : List Byte := ((keyExpansion ks K).getD i AesWord.zero).bytes

/-- The nine ASCII bytes `123456789`, the input of every CRC check value (R94, R99). -/
def crcCheckInput : List Byte := hexString 9 0x313233343536373839

/-- CRC-4/G-704 (R99). -/
def crcG704 : CrcParams := ⟨4, 0x3#4, 0x0#4, true, true, 0x0#4, by decide, by decide⟩
/-- CRC-4/INTERLAKEN (R99). -/
def crcInterlaken : CrcParams := ⟨4, 0x3#4, 0xF#4, false, false, 0xF#4, by decide, by decide⟩
/-- CRC-24/OPENPGP (R99). -/
def crcOpenPgp : CrcParams := ⟨24, 0x864CFB#24, 0xB704CE#24, false, false, 0x000000#24, by decide, by decide⟩

/-- The keys of the known answers of R136 and R139, one for each key size. -/
def knownKey : KeySize → List Byte
  | .aes128 => hexString 16 0x2B7E151628AED2A6ABF7158809CF4F3C
  | .aes192 => hexString 24 0x8E73B0F7DA0E6452C810F32B809079E562F8EAD2522C6B7B
  | .aes256 => hexString 32 0x603DEB1015CA71BE2B73AEF0857D77811F352C073B6108D72D9810A30914DFF4

/-- The bytes of the word `w[i]` that the known key expands to. -/
def knownWord (ks : KeySize) (i : Nat) : List Byte := expansionAt ks (knownKey ks) i

/-- `KEY.bytes` of the vector configuration (R17). -/
def vectorKey : List Byte := hexString 3 0x6B6579 ++ zeros 29

/-- The key `00 01 02 ..` of the known answers of R137, as long as the key size. -/
def countingKey (ks : KeySize) : List Byte := (List.range ks.bytes).map (BitVec.ofNat 8)

/-- `CBC_Encrypt` of R139's four plaintext blocks from its IV, under the known key. -/
def knownChain (ks : KeySize) : List Block :=
  cbcEncrypt (aesEnc ks (knownKey ks)) (hexBlock 0x000102030405060708090A0B0C0D0E0F)
    [hexBlock 0x6BC1BEE22E409F96E93D7E117393172A, hexBlock 0xAE2D8A571E03AC9C9EB76FAC45AF8E51,
      hexBlock 0x30C81C46A35CE411E5FBC1191A0A52EF, hexBlock 0xF69F2445DF4F9B17AD2B417BE66C3710]

/-- Bytes 0..207 of the example frame of R91, over which R99 gives stored values. -/
def crcExampleBytes : List Byte := hexString 13 0x4C4E0AFF0205000068656C6C6F ++ zeros 195

/-- The affine transform of R133. -/
def sboxAffine (b : Byte) : Byte :=
  b ^^^ b.rotateLeft 1 ^^^ b.rotateLeft 2 ^^^ b.rotateLeft 3 ^^^ b.rotateLeft 4 ^^^ 0x63#8

/-- The text of R154 in one expression: the first `n` payload bytes before their first 00. -/
def textOf (L : Layout) (B : Frame) (n : Nat) : List Byte := ((B.list.drop (off L .payload)).take n).takeWhile (· != 0#8)

/-- The time value in the five payload bytes from `o` on (R68): `seconds` little-endian, then `parts`. -/
def stampAt (L : Layout) (B : Frame) (o : Nat) : TimeValue :=
  ⟨B.at (off L .payload + o + 3) ++ B.at (off L .payload + o + 2) ++ B.at (off L .payload + o + 1) ++ B.at (off L .payload + o),
    B.at (off L .payload + o + 4)⟩

/-- The formula of R178 with Lean's division truncating toward zero. -/
def latency (out back : TimeValue) : Int :=
  ((back.seconds.toNat : Int) - out.seconds.toNat) * 1000 + Int.tdiv (((back.parts.toNat : Int) - out.parts.toNat) * 1000) 256

/-- The upper-case hexadecimal digit of a number below 16. -/
def upperDigit (n : Nat) : Byte := BitVec.ofNat 8 (if n < 10 then 0x30 + n else 0x41 + (n - 10))
/-- The lower-case hexadecimal digit of a number below 16. -/
def lowerDigit (n : Nat) : Byte := BitVec.ofNat 8 (if n < 10 then 0x30 + n else 0x61 + (n - 10))
/-- The bytes as pairs of upper-case hexadecimal digits. -/
def hexText : List Byte → List Byte
  | [] => []
  | b :: bs => upperDigit (b.toNat / 16) :: upperDigit (b.toNat % 16) :: hexText bs

/-- A word of the command surface that a line can begin with: not empty, no space in it. -/
def IsWord (w : List Byte) : Prop := w ≠ [] ∧ space ∉ w

/-- The words R190 looks for before the key words. -/
def fixedWords : List (List Byte) := [pingWord, helpWord, dateWord]

/-- The key words of a configuration are words, differ from each other and from the fixed ones (log entry 6). -/
def WordsApart (cfg : Config) : Prop :=
  IsWord cfg.keyWord ∧ IsWord cfg.keyClearWord ∧ IsWord cfg.selftestWord ∧
    cfg.keyWord ∉ fixedWords ∧ cfg.keyClearWord ∉ cfg.keyWord :: fixedWords ∧
    cfg.selftestWord ∉ cfg.keyWord :: cfg.keyClearWord :: fixedWords

/-- The first word of the line is no command word (R190). -/
def NoCommand (cfg : Config) (line : List Byte) : Prop :=
  firstWord line ∉ cfg.keyWord :: cfg.keyClearWord :: cfg.selftestWord :: fixedWords

end Sys2Proof.Machine
end

