-- ==== Sys2Proof/Certificates/Slice0/Obligations.lean ====
section
/-! DEFINITION. The statements for the provers. Each docstring names the rule of the spec it formalises; a statement that rests
on a choice of the model says so and names the log entry. -/

open Sys2Proof Sys2Proof.Machine

/-! ## Encoding -/

/-- R80, R81, R83: no operand is lost in its word. The layout of operands in a word is the model's choice (log entry 3). -/
def Obligations.DecodeEncodeRoundTrip : Prop :=
  ∀ i : Instr, i.WellFormed → decode (encode i).1 (encode i).2 = .ok i

/-- R80, R81, R83: a word that decodes has one meaning, a well-formed instruction whose word it is (log entry 3). -/
def Obligations.DecodedWordIsItsEncoding : Prop :=
  ∀ (fmt : Format) (bs : List Byte) (i : Instr), decode fmt bs = .ok i → i.WellFormed ∧ encode i = (fmt, bs)

/-- R83, R70: every `protocol` byte is in exactly one row of the map, and the four named values are in their own rows. -/
def Obligations.ProtocolByteHasOneRow : Prop :=
  (∀ p : Byte, ∃ c : ProtoClass, classOf p = some c ∧ ∀ d : ProtoClass, rowMatches d.pattern d.mask p = true ↔ d = c) ∧
    classOf 0#8 = some .reserved ∧ classOf 1#8 = some .time ∧ classOf 2#8 = some .chat ∧ classOf 3#8 = some .ping

/-- A few words written out from R80's table, the steps 9 and 11 of P3 and step 1 of P1 among them (95_test_vectors.md). -/
def Obligations.WrittenWordsDecode : Prop :=
  decode .op [0x00#8] = .ok .frameClear ∧ decode .op [0x06#8, 0x02#8] = .ok (.keySetIndex 0x02#8) ∧
    decode .op [0x07#8] = .ok .keyClear ∧ decode .op [0x05#8, 0x6B#8, 0x65#8, 0x79#8] = .ok (.keySetLiteral [0x6B#8, 0x65#8, 0x79#8]) ∧
    (∀ iv : Iv, decode .op (0x11#8 :: 0x68#8 :: 0x69#8 :: 0x0B#8 :: iv.list) = .ok (.tell [0x68#8, 0x69#8] 0x0B#8 iv)) ∧
    ∀ iv : Iv, decode .op (0x12#8 :: 0x0A#8 :: iv.list) = .ok (.pingSend 0x0A#8 iv)

/-- R82: an unassigned selector is refused, whatever follows it; a refusal answers no next state and so changes none. -/
def Obligations.UnassignedSelectorRefused : Prop :=
  ∀ (s : State) (sel : Byte) (bs : List Byte) (now : TimeValue) (rest : List Request), 0x13 ≤ sel.toNat → sel.toNat ≤ 0x1F →
    s.inbox = ⟨.word .op (sel :: bs), now⟩ :: rest → step s = .refused (.undecodable (.unassignedSelector sel))

/-- R50: a request for an operation runs the instruction its word decodes to, with `NOW` the clock of that request. -/
def Obligations.StepRunsDecodedInstruction : Prop :=
  ∀ (s : State) (fmt : Format) (bs : List Byte) (now : TimeValue) (rest : List Request) (i : Instr),
    s.inbox = ⟨.word fmt bs, now⟩ :: rest → decode fmt bs = .ok i →
      step s = exec i (s.serving now rest)

/-! ## Frame Codec and CRC -/

/-- R90. -/
def Obligations.FrameClearGivesEmptyFrame : Prop :=
  ∀ s : State, ∃ B : Frame, Answers .frameClear s (okay (.frame B) []) ∧ ∀ k, k < 212 → B.at k = 0#8

/-- R91, R100: every field of the built frame, and the refusal of a message that does not fit. -/
def Obligations.FrameBuildLaysOutFields : Prop :=
  ∀ (s : State) (L : Layout) (src dst proto : Byte) (msg : List Byte) (iv : Iv),
    (msg.length ≤ cap L → ∃ B : Frame, Answers (.frameBuild L src dst proto msg iv) s (okay (.frame B) []) ∧
      memRead B 0 2 = s.cfg.magic.list ∧ B.at 2 = src ∧ B.at 3 = dst ∧ (L = .S → memRead B 4 16 = iv.list) ∧
      fldByte B L .protocol = proto ∧ (fldByte B L .length).toNat = msg.length ∧
      memRead B (off L .payload) msg.length = msg ∧
      (∀ k, k < fieldSize L .padding → B.at (off L .padding + k) = 0#8) ∧
      (∀ k, msg.length ≤ k → k < cap L → B.at (off L .payload + k) = 0#8) ∧ ∀ k, k < 4 → B.at (208 + k) = 0#8) ∧
    (cap L < msg.length → Answers (.frameBuild L src dst proto msg iv) s (failed (.payloadTooLarge msg.length) []))

/-- R92. -/
def Obligations.FrameValidateComparesLength : Prop :=
  ∀ (s : State) (L : Layout) (B : Frame),
    ((fldByte B L .length).toNat ≤ cap L → Answers (.frameValidate L B) s (okay .none [])) ∧
    (cap L < (fldByte B L .length).toNat →
      Answers (.frameValidate L B) s (failed (.payloadTooLarge (fldByte B L .length).toNat) []))

/-- R94: the default algorithm is CRC-32/ISO-HDLC and its check value is 0xCBF43926. R99: the check value and the value stored
for the example frame of R91 under all four parameter sets, reflected and not, of width 32, 24 and 4. -/
def Obligations.DefaultCrcHasCheckValue : Prop :=
  State.reset.cfg.crc = ⟨32, 0x04C11DB7#32, 0xFFFFFFFF#32, true, true, 0xFFFFFFFF#32, by decide, by decide⟩ ∧
    crc .isoHdlc [0x31#8, 0x32#8, 0x33#8, 0x34#8, 0x35#8, 0x36#8, 0x37#8, 0x38#8, 0x39#8] = 0xCBF43926#32 ∧
    (crc .isoHdlc crcExampleBytes).toNat = 0x802537D2 ∧
    (crc crcG704 crcCheckInput).toNat = 0x7 ∧ (crc crcG704 crcExampleBytes).toNat = 0x00000006 ∧
    (crc crcInterlaken crcCheckInput).toNat = 0xB ∧ (crc crcInterlaken crcExampleBytes).toNat = 0x00000007 ∧
    (crc crcOpenPgp crcCheckInput).toNat = 0x21CF02 ∧ (crc crcOpenPgp crcExampleBytes).toNat = 0x00412909

/-- R95: the CRC depends on bytes 0..207 and on no other byte. -/
def Obligations.CrcCoversPrecedingBytes : Prop :=
  ∀ (cfg : Config) (B C : Frame), (∀ k, k < 208 → B.at k = C.at k) →
    crcOf cfg B = crcOf cfg C ∧ crcOf cfg B = (crc cfg.crc (B.list.take 208)).setWidth 32

/-- R96: the trailer is overwritten with the CRC in the field's byte order, every other byte is unchanged, a second generation
changes nothing, and a CRC narrower than the field leaves its upper bits zero. -/
def Obligations.CrcGenWritesTrailerOnly : Prop :=
  ∀ (s : State) (B : Frame), ∃ C : Frame, Answers (.crcGen B) s (okay (.frame C) []) ∧ (∀ k, k < 208 → C.at k = B.at k) ∧
    (s.cfg.crcOrder = .little → ∀ j, j < 4 → C.at (208 + j) = ((crcOf s.cfg B) >>> (8 * j)).setWidth 8) ∧
    (s.cfg.crcOrder = .big → ∀ j, j < 4 → C.at (211 - j) = ((crcOf s.cfg B) >>> (8 * j)).setWidth 8) ∧
    Answers (.crcGen C) s (okay (.frame C) []) ∧ (crcOf s.cfg B).toNat < 2 ^ s.cfg.crc.width

/-- R97: the check compares all 32 bits, reports both values, and accepts every generated frame. -/
def Obligations.CrcCheckComparesTrailer : Prop :=
  ∀ (s : State) (B C : Frame),
    (storedCrc s.cfg B = crcOf s.cfg B → Answers (.crcCheck B) s (okay .none [])) ∧
    (storedCrc s.cfg B ≠ crcOf s.cfg B →
      Answers (.crcCheck B) s (failed (.badCrc (storedCrc s.cfg B) (crcOf s.cfg B)) [])) ∧
    (Answers (.crcGen B) s (okay (.frame C) []) → Answers (.crcCheck C) s (okay .none []))

/-! ## The key register -/

/-- R110. -/
def Obligations.KeySetLiteralPadsOrRefuses : Prop :=
  ∀ (s : State) (lit : List Byte),
    (1 ≤ lit.length → lit.length ≤ s.cfg.keySize.bytes → AnswersWritingKey (.keySetLiteral lit) s
      ⟨true, lit ++ List.replicate (s.cfg.keySize.bytes - lit.length) 0#8, BitVec.ofNat 16 (8 * s.cfg.keySize.bytes)⟩
      (okay .none [])) ∧
    (lit.length = 0 ∨ s.cfg.keySize.bytes < lit.length → Answers (.keySetLiteral lit) s (failed .argumentError []))

/-- R111: an accepted index sets the stored key as a literal would; every other index is an `ArgumentError`. -/
def Obligations.KeySetIndexReadsKeystore : Prop :=
  ∀ (s : State) (idx : Byte) (rec : KeyRecord),
    (idx = 0#8 ∧ rec = s.cfg.keystore0 ∨ idx = 1#8 ∧ rec = s.cfg.keystore1 →
      exec (.keySetIndex idx) s = exec (.keySetLiteral rec.bytes) s ∧
      (1 ≤ rec.bytes.length → rec.bytes.length ≤ s.cfg.keySize.bytes → AnswersWritingKey (.keySetIndex idx) s
        ⟨true, rec.bytes ++ List.replicate (s.cfg.keySize.bytes - rec.bytes.length) 0#8,
          BitVec.ofNat 16 (8 * s.cfg.keySize.bytes)⟩ (okay .none [])) ∧
      (rec.bytes.length = 0 ∨ s.cfg.keySize.bytes < rec.bytes.length →
        Answers (.keySetIndex idx) s (failed .argumentError []))) ∧
    (2 ≤ idx.toNat → Answers (.keySetIndex idx) s (failed .argumentError []))

/-- R112: the absent state, `OK` always; afterwards the cipher operations return `NoKey`. -/
def Obligations.KeyClearMakesKeyAbsent : Prop :=
  ∀ s : State, AnswersWritingKey .keyClear s ⟨false, List.replicate s.cfg.keySize.bytes 0#8, 0#16⟩ (okay .none []) ∧
    ∀ (t : State) (B : Frame), exec .keyClear s = .next t → Answers (.encrypt B) t (failed .noKey []) ∧
      Answers (.decrypt B) t (failed .noKey []) ∧ Answers .selftest t (failed .noKey []) ∧ layoutInForce t.key = .F

/-- R24: no operation but the three key operations writes `KEY`, and every operation leaves the parameters, the clock, the
callback and the requests to come as they were. -/
def Obligations.OnlyKeyOperationsWriteKey : Prop :=
  ∀ (i : Instr) (s t : State), exec i s = .next t → (mayWriteKey i = false → t.key = s.key) ∧ t.cfg = s.cfg ∧
    t.now = s.now ∧ t.callback = s.callback ∧ t.inbox = s.inbox

/-- R23 with R30, and R203: the two invariants that every step keeps hold at reset. That the history is empty there, so that it
holds no sent frame, is the model's choice (log entry 1). -/
def Obligations.InvariantsHoldAtReset : Prop :=
  KeyReg.Canonical State.reset.cfg.keySize State.reset.key ∧ State.reset.SentCarryMagic ∧ sentFrames State.reset.log = []

/-- R23: from any state whose key register is in a legal value, a step leaves it in a legal value. -/
def Obligations.StepKeepsKeyCanonical : Prop :=
  ∀ s t : State, KeyReg.Canonical s.cfg.keySize s.key → step s = .next t → KeyReg.Canonical t.cfg.keySize t.key

/-! ## The Secure Frame Transform -/

/-- R133: the S-box is the affine transform of the multiplicative inverse, the inverse of 00 taken as 00. -/
def Obligations.SboxIsAffineOfInverse : Prop :=
  sbox 0#8 = sboxAffine 0#8 ∧ ∀ a : Byte, a ≠ 0#8 → ∃ b : Byte, gmul a b = 1#8 ∧ sbox a = sboxAffine b

/-- R134. -/
def Obligations.InvSboxInvertsSbox : Prop := ∀ a : Byte, invSbox (sbox a) = a ∧ sbox (invSbox a) = a

/-- R138's law: the inverse cipher undoes the cipher and the cipher the inverse, under every key; and the known answers that pin
the key expansion (R136), the cipher (R137) and chaining (R139) for the three key sizes. -/
def Obligations.AesDecInvertsAesEnc : Prop :=
  (∀ (ks : KeySize) (K : List Byte) (X : Block), aesDec ks K (aesEnc ks K X) = X ∧ aesEnc ks K (aesDec ks K X) = X) ∧
    knownWord .aes128 4 = hexString 4 0xA0FAFE17 ∧ knownWord .aes128 5 = hexString 4 0x88542CB1 ∧
    knownWord .aes128 6 = hexString 4 0x23A33939 ∧ knownWord .aes128 7 = hexString 4 0x2A6C7605 ∧
    knownWord .aes128 43 = hexString 4 0xB6630CA6 ∧
    knownWord .aes192 6 = hexString 4 0xFE0C91F7 ∧ knownWord .aes192 7 = hexString 4 0x2402F5A5 ∧
    knownWord .aes192 51 = hexString 4 0x01002202 ∧
    knownWord .aes256 8 = hexString 4 0x9BA35411 ∧ knownWord .aes256 9 = hexString 4 0x8E6925AF ∧
    knownWord .aes256 10 = hexString 4 0xA51A8B5F ∧ knownWord .aes256 11 = hexString 4 0x2067FCDE ∧
    knownWord .aes256 12 = hexString 4 0xA8B09C1A ∧ knownWord .aes256 59 = hexString 4 0x706C631E ∧
    expansionAt .aes256 vectorKey 8 = hexString 4 0x09061A63 ∧ expansionAt .aes256 vectorKey 9 = hexString 4 0x09061A63 ∧
    aesEnc .aes128 (countingKey .aes128) (hexBlock 0x00112233445566778899AABBCCDDEEFF) =
      hexBlock 0x69C4E0D86A7B0430D8CDB78070B4C55A ∧
    aesEnc .aes192 (countingKey .aes192) (hexBlock 0x00112233445566778899AABBCCDDEEFF) =
      hexBlock 0xDDA97CA4864CDFE06EAF70A0EC0D7191 ∧
    aesEnc .aes256 (countingKey .aes256) (hexBlock 0x00112233445566778899AABBCCDDEEFF) =
      hexBlock 0x8EA2B7CA516745BFEAFC49904B496089 ∧
    aesEnc .aes128 (knownKey .aes128) (hexBlock 0x3243F6A8885A308D313198A2E0370734) =
      hexBlock 0x3925841D02DC09FBDC118597196A0B32 ∧
    aesEnc .aes256 vectorKey (hexBlock 0) = hexBlock 0xE61C305717C6EA27FC5044AB22E16737 ∧
    knownChain .aes128 = [hexBlock 0x7649ABAC8119B246CEE98E9B12E9197D, hexBlock 0x5086CB9B507219EE95DB113A917678B2,
      hexBlock 0x73BED6B8E3C1743B7116E69E22229516, hexBlock 0x3FF1CAA1681FAC09120ECA307586E1A7] ∧
    knownChain .aes192 = [hexBlock 0x4F021DB243BC633D7178183A9FA071E8, hexBlock 0xB4D9ADA9AD7DEDF4E5E738763F69145A,
      hexBlock 0x571B242012FB7AE07FA9BAAC3DF102E0, hexBlock 0x08B0E27988598881D920A9E64F5615CD] ∧
    knownChain .aes256 = [hexBlock 0xF58C4C04D6E5F1BA779EABFB5F7BFBD6, hexBlock 0x9CFC4E967EDB808D679F777BC6702C7D,
      hexBlock 0x39F23369A9D9BACFA530E26304231461, hexBlock 0xB2EB05E2C39BE9FCDA6C19078C6A9D1B]

/-- R115, with the spec's inference in R120: in chaining mode a changed ciphertext block changes its own plaintext block under
a block function that, as `AES_Dec` under every key, takes no two blocks to one; it flips the same bits in the next block, and
touches no other. -/
def Obligations.ChangedBlockReachesNextOnly : Prop :=
  ∀ (dec : Block → Block) (iv c c' : Block) (before after : List Block),
    ∃ p p' : Block, ∃ front back back' : List Block,
      cbcDecrypt dec iv (before ++ c :: after) = front ++ p :: back ∧
      cbcDecrypt dec iv (before ++ c' :: after) = front ++ p' :: back' ∧
      front.length = before.length ∧ back.tail = back'.tail ∧
      ((∀ x y : Block, dec x = dec y → x = y) → c ≠ c' → p ≠ p') ∧
      (∀ (ks : KeySize) (K : List Byte), dec = aesDec ks K → c ≠ c' → p ≠ p') ∧
      ∀ q q' : Block, back.head? = some q → back'.head? = some q' → q' = q.xor (c.xor c')

/-- R117, R122: with a key, every byte outside 32..207 is copied and the payload region is the CBC encryption of the
operand's; without one, `NoKey` and no frame. -/
def Obligations.EncryptTransformsPayloadOnly : Prop :=
  ∀ (s : State) (P : Frame),
    (s.key.valid = true → ∃ C : Frame, Answers (.encrypt P) s (okay (.frame C) []) ∧
      (∀ k, k < 32 ∨ 208 ≤ k → C.at k = P.at k) ∧
      payloadBlocks C = cbcEncrypt (aesEnc s.cfg.keySize s.key.bytes) (Block.ofBytes (memRead P 4 16)) (payloadBlocks P)) ∧
    (s.key.valid = false → Answers (.encrypt P) s (failed .noKey []))

/-- R118. -/
def Obligations.DecryptTransformsPayloadOnly : Prop :=
  ∀ (s : State) (C : Frame),
    (s.key.valid = true → ∃ P : Frame, Answers (.decrypt C) s (okay (.frame P) []) ∧
      (∀ k, k < 32 ∨ 208 ≤ k → P.at k = C.at k) ∧
      payloadBlocks P = cbcDecrypt (aesDec s.cfg.keySize s.key.bytes) (Block.ofBytes (memRead C 4 16)) (payloadBlocks C)) ∧
    (s.key.valid = false → Answers (.decrypt C) s (failed .noKey []))

/-- The laws of R119, which the spec derives from R114, R115, R117, R118: (a) the round trip both ways, (b) and (c) preservation
of header, IV and metadata, (d) the output depends on the key bytes and the operand only, (e) fail-closed. -/
def Obligations.EncryptDecryptLaws : Prop :=
  ∀ (s : State) (P : Frame),
    (s.key.valid = true → ∃ C D : Frame,
      Answers (.encrypt P) s (okay (.frame C) []) ∧ Answers (.decrypt C) s (okay (.frame P) []) ∧
      Answers (.decrypt P) s (okay (.frame D) []) ∧ Answers (.encrypt D) s (okay (.frame P) []) ∧
      memRead C 0 20 = memRead P 0 20 ∧ memRead C 20 12 = memRead P 20 12 ∧ memRead C 208 4 = memRead P 208 4 ∧
      ∀ t : State, t.key.valid = true → t.key.bytes = s.key.bytes → t.cfg.keySize = s.cfg.keySize →
        Answers (.encrypt P) t (okay (.frame C) [])) ∧
    (s.key.valid = false → Answers (.encrypt P) s (failed .noKey []) ∧ Answers (.decrypt P) s (failed .noKey []))

/-- R121: by R119 the self-test of this block always finds every region unchanged; without a key it returns `NoKey`. -/
def Obligations.SelftestFindsNoDifference : Prop :=
  ∀ s : State,
    (s.key.valid = true → Answers .selftest s (okay (.mask 0#3) [.selfTestReport 0#3])) ∧
    (s.key.valid = false → Answers .selftest s (failed .noKey []))

/-! ## The dispatcher -/

/-- R150, R151: the route of every `protocol` value; a frame of no handler is dropped with no event. -/
def Obligations.DispatchRoutesByProtocol : Prop :=
  ∀ (s : State) (L : Layout) (B : Frame) (iv : Iv),
    (fldByte B L .protocol = 2#8 → ∃ r, Answers (.chatRx L B) s r ∧
      Answers (.dispatch L B iv) s { r with route := some .chat }) ∧
    (fldByte B L .protocol = 3#8 → ∃ r, Answers (.pingRx L B iv) s r ∧
      Answers (.dispatch L B iv) s { r with route := some .ping }) ∧
    (fldByte B L .protocol = 1#8 → Answers (.dispatch L B iv) s ⟨.ok, some .timeExternal, .none, []⟩) ∧
    (fldByte B L .protocol = 0#8 ∨ 4 ≤ (fldByte B L .protocol).toNat →
      Answers (.dispatch L B iv) s ⟨.unknownProtocol, some .dropped, .none, []⟩)

/-- R83 with R150: a well-formed frame of any row of the protocol-id map does what `DISPATCH` does with it. -/
def Obligations.ProtocolRowsAgreeWithDispatch : Prop :=
  ∀ (s : State) (L : Layout) (c : ProtoClass) (B : Frame) (iv : Iv), (protoInstr L c B iv).WellFormed →
    exec (protoInstr L c B iv) s = exec (.dispatch L B iv) s

/-- R70, R71, R157: the rows of `Reserved`, of the unrecognized values and of `Time`, under both layouts, have no effect. -/
def Obligations.ReservedAndTimeRowsHaveNoEffect : Prop :=
  ∀ (s : State) (B : Frame) (iv : Iv),
    (∀ i ∈ [Instr.protoReservedF B iv, .protoUnrecognized04F B iv, .protoUnrecognized08F B iv, .protoUnrecognized10F B iv,
        .protoUnrecognized20F B iv, .protoUnrecognized40F B iv, .protoUnrecognized80F B iv, .protoReservedS B iv,
        .protoUnrecognized04S B iv, .protoUnrecognized08S B iv, .protoUnrecognized10S B iv, .protoUnrecognized20S B iv,
        .protoUnrecognized40S B iv, .protoUnrecognized80S B iv],
      Answers i s ⟨.unknownProtocol, some .dropped, .none, []⟩) ∧
    Answers (.protoTimeF B iv) s ⟨.ok, some .timeExternal, .none, []⟩ ∧
    Answers (.protoTimeS B iv) s ⟨.ok, some .timeExternal, .none, []⟩

/-- R153: the length test first, then the two address tests in order; the text is R154's. -/
def Obligations.ChatRxClassifies : Prop :=
  ∀ (s : State) (L : Layout) (B : Frame) (n : Byte) (text : List Byte), n = fldByte B L .length → text = textOf L B n.toNat →
    (cap L < n.toNat → Answers (.chatRx L B) s (failed (.malformedFrame n) [.diagnostic .malformedFrame])) ∧
    (n.toNat ≤ cap L → fldByte B L .destination = s.cfg.nodeAddr →
      Answers (.chatRx L B) s (okay (.chat .direct (fldByte B L .source) text)
        [.chatRender .direct (fldByte B L .source) text])) ∧
    (n.toNat ≤ cap L → fldByte B L .destination ≠ s.cfg.nodeAddr → fldByte B L .destination = 0xFF#8 →
      Answers (.chatRx L B) s (okay (.chat .broadcast (fldByte B L .source) text)
        [.chatRender .broadcast (fldByte B L .source) text])) ∧
    (n.toNat ≤ cap L → fldByte B L .destination ≠ s.cfg.nodeAddr → fldByte B L .destination ≠ 0xFF#8 →
      Answers (.chatRx L B) s (failed .unaddressedFrame []))

/-- R153 under R70: the Chat rows render a frame for this node, or a broadcast one, with the route `Chat`. -/
def Obligations.ChatRowsRender : Prop :=
  ∀ (s : State) (B : Frame) (iv : Iv),
    ((fldByte B .F .length).toNat ≤ 200 →
      (B.at 3 = s.cfg.nodeAddr → Answers (.protoChatF B iv) s
        ⟨.ok, some .chat, .chat .direct (B.at 2) (textOf .F B (B.at 5).toNat),
          [.chatRender .direct (B.at 2) (textOf .F B (B.at 5).toNat)]⟩) ∧
      (B.at 3 ≠ s.cfg.nodeAddr → B.at 3 = 0xFF#8 → Answers (.protoChatF B iv) s
        ⟨.ok, some .chat, .chat .broadcast (B.at 2) (textOf .F B (B.at 5).toNat),
          [.chatRender .broadcast (B.at 2) (textOf .F B (B.at 5).toNat)]⟩)) ∧
    ((fldByte B .S .length).toNat ≤ 176 →
      (B.at 3 = s.cfg.nodeAddr → Answers (.protoChatS B iv) s
        ⟨.ok, some .chat, .chat .direct (B.at 2) (textOf .S B (B.at 21).toNat),
          [.chatRender .direct (B.at 2) (textOf .S B (B.at 21).toNat)]⟩) ∧
      (B.at 3 ≠ s.cfg.nodeAddr → B.at 3 = 0xFF#8 → Answers (.protoChatS B iv) s
        ⟨.ok, some .chat, .chat .broadcast (B.at 2) (textOf .S B (B.at 21).toNat),
          [.chatRender .broadcast (B.at 2) (textOf .S B (B.at 21).toNat)]⟩))

/-- R154, R48: the text is the payload bytes before the first 00 among the first `n`; no byte at index `n` or above is read. -/
def Obligations.ChatTextReadsWithinLength : Prop :=
  ∀ (L : Layout) (B C : Frame) (n : Nat), n ≤ cap L →
    chatText L B n = textOf L B n ∧ (chatText L B n).length ≤ n ∧ 0#8 ∉ chatText L B n ∧
    (∀ k, k < (chatText L B n).length → byteAt (chatText L B n) k = B.at (off L .payload + k)) ∧
    ((chatText L B n).length < n → B.at (off L .payload + (chatText L B n).length) = 0#8) ∧
    ((∀ k, k < n → C.at (off L .payload + k) = B.at (off L .payload + k)) → chatText L C n = chatText L B n)

/-- R155 with R174 and R175: the length test first, then the address tests in order; what each class emits. The response is one
`TX_FRAME` from this node to `origin` of the packet with `timestamp_back` stamped. -/
def Obligations.PingRxClassifies : Prop :=
  ∀ (s : State) (L : Layout) (B : Frame) (iv : Iv) (n origin : Byte) (packet : List Byte), n = fldByte B L .length →
    origin = B.at (off L .payload + 10) →
    packet = memRead B (off L .payload) 5 ++ timePack s.now ++ [origin] →
    (n.toNat < 11 ∨ cap L < n.toNat →
      Answers (.pingRx L B iv) s (failed (.malformedFrame n) [.diagnostic .malformedFrame])) ∧
    (11 ≤ n.toNat → n.toNat ≤ cap L → fldByte B L .destination = s.cfg.nodeAddr → origin ≠ s.cfg.nodeAddr →
      ∃ W : Frame, Answers (.txFrame s.cfg.nodeAddr origin 3#8 packet iv) s (okay .none [.send W]) ∧
        Answers (.pingRx L B iv) s (okay (.ping .probeToUs) [.send W])) ∧
    (11 ≤ n.toNat → n.toNat ≤ cap L → ¬(fldByte B L .destination = s.cfg.nodeAddr ∧ origin ≠ s.cfg.nodeAddr) →
      (fldByte B L .source = s.cfg.nodeAddr ∨ fldByte B L .destination = s.cfg.nodeAddr) →
      Answers (.pingRx L B iv) s (okay (.ping .ownResponse) [.pingReport (latency (stampAt L B 0) (stampAt L B 5))])) ∧
    (11 ≤ n.toNat → n.toNat ≤ cap L → fldByte B L .source ≠ s.cfg.nodeAddr → fldByte B L .destination ≠ s.cfg.nodeAddr →
      Answers (.pingRx L B iv) s (failed .unaddressedFrame []))

/-- R155 under R70: the Ping rows answer a probe to this node with one `send`, and report a response to its own probe. -/
def Obligations.PingRowsAnswerAndReport : Prop :=
  ∀ (s : State) (L : Layout) (i : Instr) (B : Frame) (iv : Iv),
    (L = .F ∧ i = .protoPingF B iv ∨ L = .S ∧ i = .protoPingS B iv) → 11 ≤ (fldByte B L .length).toNat →
    (fldByte B L .length).toNat ≤ cap L → fldByte B L .destination = s.cfg.nodeAddr →
    (B.at (off L .payload + 10) ≠ s.cfg.nodeAddr → ∃ W : Frame,
      Answers (.txFrame s.cfg.nodeAddr (B.at (off L .payload + 10)) 3#8
        (memRead B (off L .payload) 5 ++ timePack s.now ++ [B.at (off L .payload + 10)]) iv) s (okay .none [.send W]) ∧
      Answers i s ⟨.ok, some .ping, .ping .probeToUs, [.send W]⟩) ∧
    (B.at (off L .payload + 10) = s.cfg.nodeAddr → Answers i s
      ⟨.ok, some .ping, .ping .ownResponse, [.pingReport (latency (stampAt L B 0) (stampAt L B 5))]⟩)

/-- R240, with R155: a frame addressed to the node its packet names as `origin`, as every response is, is answered by no node. -/
def Obligations.ResponseIsNeverAnswered : Prop :=
  ∀ (s t : State) (L : Layout) (B : Frame) (iv : Iv), fldByte B L .destination = B.at (off L .payload + 10) →
    exec (.pingRx L B iv) s = .next t → ∃ evs, t.log = s.log ++ evs ∧ sentFrames evs = []

/-- R160, R205: the order of the checks, and the frame the dispatcher gets. -/
def Obligations.RxFrameChecksThenDispatches : Prop :=
  ∀ (s : State) (W B : Frame) (iv : Iv),
    (s.key.valid = false ∧ B = W ∨ s.key.valid = true ∧ Answers (.decrypt W) s (okay (.frame B) [])) →
    (memRead W 0 2 ≠ s.cfg.magic.list → Answers (.rxFrame W iv) s (failed .badMagic [])) ∧
    (memRead W 0 2 = s.cfg.magic.list → storedCrc s.cfg B ≠ crcOf s.cfg B →
      Answers (.rxFrame W iv) s (failed (.badCrc (storedCrc s.cfg B) (crcOf s.cfg B)) [])) ∧
    (memRead W 0 2 = s.cfg.magic.list → storedCrc s.cfg B = crcOf s.cfg B →
      ∃ r, Answers (.dispatch (if s.key.valid then .S else .F) B iv) s r ∧ Answers (.rxFrame W iv) s r)

/-! ## The transmit path and the sub-protocols -/

/-- R162, R161: the transmit path is the build, the CRC and, with a key, the cipher, then one `send`; a message that does not
fit is refused and nothing is sent. -/
def Obligations.TxFrameBuildsSumsEncryptsSends : Prop :=
  ∀ (s : State) (L : Layout) (src dst proto : Byte) (msg : List Byte) (iv : Iv), L = (if s.key.valid then .S else .F) →
    (msg.length ≤ cap L → ∃ B C W : Frame, Answers (.frameBuild L src dst proto msg iv) s (okay (.frame B) []) ∧
      Answers (.crcGen B) s (okay (.frame C) []) ∧ Answers (.txFrame src dst proto msg iv) s (okay .none [.send W]) ∧
      (s.key.valid = true → Answers (.encrypt C) s (okay (.frame W) [])) ∧ (s.key.valid = false → W = C)) ∧
    (cap L < msg.length → Answers (.txFrame src dst proto msg iv) s (failed (.payloadTooLarge msg.length) []))

/-- R170, R171: `SHOUT` and `TELL` are Chat frames from this node, to everyone or to one node. -/
def Obligations.ShoutAndTellTransmitChat : Prop :=
  ∀ (s : State) (L : Layout) (msg : List Byte) (dst : Byte) (iv : Iv), L = (if s.key.valid then .S else .F) →
    (msg.length ≤ cap L →
      (∃ W : Frame, Answers (.txFrame s.cfg.nodeAddr 0xFF#8 2#8 msg iv) s (okay .none [.send W]) ∧
        Answers (.shout msg iv) s (okay .none [.send W])) ∧
      (∃ W : Frame, Answers (.txFrame s.cfg.nodeAddr dst 2#8 msg iv) s (okay .none [.send W]) ∧
        Answers (.tell msg dst iv) s (okay .none [.send W]))) ∧
    (cap L < msg.length → Answers (.shout msg iv) s (failed (.payloadTooLarge msg.length) []) ∧
      Answers (.tell msg dst iv) s (failed (.payloadTooLarge msg.length) []))

/-- R173: a probe carries `NOW`, an unset `timestamp_back` and this node as `origin`; it is always sent. -/
def Obligations.PingSendTransmitsProbe : Prop :=
  ∀ (s : State) (target : Byte) (iv : Iv), ∃ W : Frame,
    Answers (.txFrame s.cfg.nodeAddr target 3#8 (timePack s.now ++ List.replicate 5 0#8 ++ [s.cfg.nodeAddr]) iv) s
      (okay .none [.send W]) ∧ Answers (.pingSend target iv) s (okay .none [.send W])

/-- R163: what one node transmits, a node in the same key state receives: the frame passes both checks and the dispatcher gets
the fields and the message. -/
def Obligations.TransmittedFrameIsReceived : Prop :=
  ∀ (s t : State) (src dst proto : Byte) (msg : List Byte) (iv iv2 : Iv) (L : Layout),
    t.key = s.key → t.cfg.magic = s.cfg.magic → t.cfg.crc = s.cfg.crc → t.cfg.crcOrder = s.cfg.crcOrder →
    t.cfg.keySize = s.cfg.keySize → L = (if s.key.valid then .S else .F) → msg.length ≤ cap L →
    ∃ (W B : Frame) (r : Response), Answers (.txFrame src dst proto msg iv) s (okay .none [.send W]) ∧
      Answers (.dispatch L B iv2) t r ∧ Answers (.rxFrame W iv2) t r ∧ fldByte B L .source = src ∧
      fldByte B L .destination = dst ∧ fldByte B L .protocol = proto ∧ (fldByte B L .length).toNat = msg.length ∧
      memRead B (off L .payload) msg.length = msg

/-- 95_test_vectors.md E5 with R173 to R176: a probe from A to B yields exactly one response, and A then reports the difference
of the two clocks, whatever they show; it is not negative when B's clock is not behind A's. -/
def Obligations.PingExchangeReportsLatency : Prop :=
  ∀ (a b a' : State) (iv1 iv2 iv3 : Iv), b.key = a.key → a'.key = a.key → a'.cfg = a.cfg →
    b.cfg.magic = a.cfg.magic → b.cfg.crc = a.cfg.crc → b.cfg.crcOrder = a.cfg.crcOrder → b.cfg.keySize = a.cfg.keySize →
    b.cfg.nodeAddr ≠ a.cfg.nodeAddr →
    ∃ (V W : Frame) (ms : Int), Answers (.pingSend b.cfg.nodeAddr iv1) a (okay .none [.send V]) ∧
      Answers (.rxFrame V iv2) b ⟨.ok, some .ping, .ping .probeToUs, [.send W]⟩ ∧
      Answers (.rxFrame W iv3) a' ⟨.ok, some .ping, .ping .ownResponse, [.pingReport ms]⟩ ∧
      ms = latency a.now b.now ∧ (TimeLe a.now b.now → 0 ≤ ms)

/-- R178: the formula with truncation toward zero, and the range of the result. -/
def Obligations.RoundTripTimeFormula : Prop :=
  ∀ out back : TimeValue, rttMs out back = latency out back ∧ -4294967295996 ≤ rttMs out back ∧
    rttMs out back ≤ 4294967295996

/-- R176: a response stamped no earlier than its probe gives a time that is not negative. -/
def Obligations.RoundTripTimeNonnegative : Prop := ∀ out back : TimeValue, TimeLe out back → 0 ≤ rttMs out back

/-! ## Statuses and events -/

/-- R208: every operation completes with one status for every operand and every state, and so does every received frame and
every command line, whatever its bytes; there is no fault and no stuck state. -/
def Obligations.EveryOperationCompletes : Prop :=
  (∀ (i : Instr) (s : State), ∃ (r : Response) (k : KeyReg), AnswersWritingKey i s k r) ∧
    (∀ (s : State) (W : Frame) (iv : Iv) (now : TimeValue) (rest : List Request),
      s.inbox = ⟨.receive W iv, now⟩ :: rest → ∃ t, step s = .next t ∧ t.key = s.key ∧ t.inbox = rest) ∧
    ∀ (s : State) (text : List Byte) (iv : Iv) (now : TimeValue) (rest : List Request),
      s.inbox = ⟨.line text iv, now⟩ :: rest → ∃ t, step s = .next t ∧ t.inbox = rest

/-- R202: the statuses each operation can return. -/
def Obligations.StatusTableHolds : Prop :=
  ∀ (i : Instr) (s t : State) (r : Response), exec i s = .next t → t.resp = some r → statusAllowed i r.status.kind = true

/-- R206: an operation that does not return `OK` returns no value, emits no `send`, and leaves `KEY` as it was; the only event
it can have emitted is the diagnostic of `MalformedFrame`. -/
def Obligations.FailedOperationProducesNothing : Prop :=
  ∀ (i : Instr) (s t : State) (r : Response), exec i s = .next t → t.resp = some r → r.status ≠ .ok →
    r.value = .none ∧ t.key = s.key ∧ (r.events = [] ∨ r.events = [.diagnostic .malformedFrame])

/-- R203: every operation emits at most one `send`; only the operations of its table do, `TX_FRAME` and its users and `PING_RX`
with what routes to it; and none that returns an error status. -/
def Obligations.AtMostOneSend : Prop :=
  ∀ (i : Instr) (s t : State), exec i s = .next t → ∃ evs, t.log = s.log ++ evs ∧ (sentFrames evs).length ≤ 1 ∧
    (maySend i = false → sentFrames evs = []) ∧
    ∀ r : Response, t.resp = some r → r.status.kind.isError = true → sentFrames evs = []

/-- R113, R150: `DISPATCH` of a frame that is not a Ping, `CHAT_RX` and the Frame Codec answer the same whatever `KEY` holds.
`PING_RX` and `DISPATCH` of any frame return the same status, class and route, and emit the same events but for the bytes of the
response, which the transmit path makes. -/
def Obligations.KeyInvisibleAboveTransform : Prop :=
  ∀ (s : State) (k : KeyReg) (L : Layout) (B : Frame) (iv : Iv) (src dst proto : Byte) (msg : List Byte) (i : Instr),
    (i ∈ [Instr.frameClear, .frameBuild L src dst proto msg iv, .frameValidate L B, .crcGen B, .crcCheck B, .chatRx L B] ∨
        (i = .dispatch L B iv ∧ fldByte B L .protocol ≠ 3#8) →
      ∃ r, Answers i s r ∧ Answers i { s with key := k } r) ∧
    (i = .pingRx L B iv ∨ i = .dispatch L B iv →
      ∃ r r' : Response, Answers i s r ∧ Answers i { s with key := k } r' ∧ r'.status = r.status ∧ r'.value = r.value ∧
        r'.route = r.route ∧
        (r'.events = r.events ∨ ∃ V W : Frame, r.events = [.send V] ∧ r'.events = [.send W]))

/-- R91 with R117: every frame the block ever sends starts with `MAGIC`: a step keeps that. The history of what was sent is a port
of the model (log entry 1). -/
def Obligations.StepKeepsSentMagic : Prop := ∀ s t : State, s.SentCarryMagic → step s = .next t → t.SentCarryMagic

/-- R21, R52: a step never changes the parameters, `NODE_ADDR` or `KEYSTORE`. That the history only grows, through power-up too,
is the model's choice (log entry 1). -/
def Obligations.StepKeepsInputsAndHistory : Prop :=
  ∀ s t : State, step s = .next t → t.cfg = s.cfg ∧ ∃ evs, t.log = s.log ++ evs

/-! ## Reset and the receive event -/

/-- R30, R231: the state after reset; the 32 bytes are R8's default of `KEY_SIZE` (log entry 2). From any state with the key
absent, reset among them, every instruction but the three key operations leaves it absent (R24), and the cipher operations
return `NoKey`. -/
def Obligations.ResetLeavesKeyAbsent : Prop :=
  State.reset.key = ⟨false, List.replicate 32 0#8, 0#16⟩ ∧ State.reset.seq = .dispatchIdle ∧
    State.reset.callback = false ∧ layoutInForce State.reset.key = .F ∧
    (∀ B : Frame, Answers (.encrypt B) State.reset (failed .noKey []) ∧
      Answers (.decrypt B) State.reset (failed .noKey []) ∧ Answers .selftest State.reset (failed .noKey [])) ∧
    ∀ s : State, s.key.valid = false → layoutInForce s.key = .F ∧
      (∀ (i : Instr) (t : State), mayWriteKey i = false → exec i s = .next t → t.key = s.key) ∧
      ∀ B : Frame, Answers (.encrypt B) s (failed .noKey []) ∧ Answers (.decrypt B) s (failed .noKey []) ∧
        Answers .selftest s (failed .noKey [])

/-- R230, R231: the reset transition clears the key and the registration, and nothing of the inputs. That the requests still to
come and the events already emitted stand is the model's choice (log entry 1). -/
def Obligations.PowerUpResetsBlock : Prop :=
  ∀ (s : State) (now : TimeValue) (rest : List Request), s.inbox = ⟨.powerUp, now⟩ :: rest →
    step s = .next
      { s.after now rest none [] with key := ⟨false, List.replicate s.cfg.keySize.bytes 0#8, 0#16⟩, callback := false }

/-- R204, R232: the receive event runs `RX_FRAME` once the callback is registered. That a frame lost before leaves the state as it
is, is the model's reading of R232 (log entry 10); that a second registration, outside the spec, is refused, is its choice (log
entry 8); that these events stand in State as requests is log entry 1. -/
def Obligations.ReceiveEventRunsRxFrame : Prop :=
  ∀ (s : State) (now : TimeValue) (rest : List Request) (W : Frame) (iv : Iv),
    (s.inbox = ⟨.receive W iv, now⟩ :: rest → s.callback = true →
      step s = exec (.rxFrame W iv) (s.serving now rest)) ∧
    (s.inbox = ⟨.receive W iv, now⟩ :: rest → s.callback = false →
      step s = .next (s.after now rest none [])) ∧
    (s.inbox = ⟨.registerCallback, now⟩ :: rest → s.callback = false →
      step s = .next { s.after now rest none [] with callback := true }) ∧
    (s.inbox = ⟨.registerCallback, now⟩ :: rest → s.callback = true → step s = .refused .secondCallback)

/-! ## The command surface -/

/-- R197. -/
def Obligations.HexParsingRule : Prop :=
  (∀ n, n < 16 → hexVal (upperDigit n) = some n ∧ hexVal (lowerDigit n) = some n) ∧
    (∀ (c : Byte) (n : Nat), hexVal c = some n → n < 16 ∧ (c = upperDigit n ∨ c = lowerDigit n)) ∧
    (∀ (a b : Byte) (x y : Nat), hexVal a = some x → hexVal b = some y →
      parseHexToken [a] = some (BitVec.ofNat 8 x) ∧ parseHexToken [a, b] = some (BitVec.ofNat 8 (16 * x + y))) ∧
    (∀ tok : List Byte, tok.length = 0 ∨ 2 < tok.length ∨ (∃ c ∈ tok, hexVal c = none) → parseHexToken tok = none) ∧
    (∀ tok junk : List Byte, space ∉ tok → (junk = [] ∨ junk.head? = some space) → firstWord (tok ++ junk) = tok) ∧
    (∀ bs : List Byte, bs ≠ [] → parseHexBytes (hexText bs) = some bs) ∧
    (∀ (a b : Byte) (x y : Nat), hexVal a = some x → hexVal b = some y →
      parseHexBytes [a, b] = some [BitVec.ofNat 8 (16 * x + y)] ∧
      ∀ tok bs : List Byte, parseHexBytes tok = some bs →
        parseHexBytes (a :: b :: tok) = some (BitVec.ofNat 8 (16 * x + y) :: bs)) ∧
    ∀ tok : List Byte, tok = [] ∨ tok.length % 2 = 1 ∨ (∃ c ∈ tok, hexVal c = none) → parseHexBytes tok = none

/-- R191, R198: `/ping` with an address sends the probe; a missing or malformed address is reported and nothing is sent. -/
def Obligations.PingLineSendsProbe : Prop :=
  ∀ (s : State) (tok junk : List Byte) (iv : Iv) (now : TimeValue) (rest : List Request), space ∉ tok →
    (junk = [] ∨ junk.head? = some space) →
    (s.inbox = ⟨.line (pingWord ++ space :: (tok ++ junk)) iv, now⟩ :: rest →
      (∀ a : Byte, parseHexToken tok = some a → step s = exec (.pingSend a iv) (s.serving now rest)) ∧
      (parseHexToken tok = none → step s = .next (s.complaining now rest .argumentError))) ∧
    (s.inbox = ⟨.line pingWord iv, now⟩ :: rest → step s = .next (s.complaining now rest .argumentError))

/-- R192, R198: `@<address> <message>` tells that node the message; a bad address, an empty message or one that does not fit is
reported. -/
def Obligations.TellLineSendsMessage : Prop :=
  ∀ (s : State) (tok tail : List Byte) (iv : Iv) (now : TimeValue) (rest : List Request), space ∉ tok →
    NoCommand s.cfg (atSign :: tok) →
    (s.inbox = ⟨.line (atSign :: (tok ++ space :: tail)) iv, now⟩ :: rest →
      (∀ a : Byte, parseHexToken tok = some a → tail ≠ [] → tail.length ≤ cap (layoutInForce s.key) →
        step s = exec (.tell tail a iv) (s.serving now rest)) ∧
      (∀ a : Byte, parseHexToken tok = some a → cap (layoutInForce s.key) < tail.length →
        step s = .next (s.complaining now rest (.payloadTooLarge tail.length))) ∧
      (parseHexToken tok = none ∨ tail = [] → step s = .next (s.complaining now rest .argumentError))) ∧
    (s.inbox = ⟨.line (atSign :: tok) iv, now⟩ :: rest → step s = .next (s.complaining now rest .argumentError))

/-- R193, R190: any other non-empty line is broadcast whole; one that does not fit is refused and reported. -/
def Obligations.OtherLineIsShouted : Prop :=
  ∀ (s : State) (line : List Byte) (iv : Iv) (now : TimeValue) (rest : List Request), line ≠ [] → NoCommand s.cfg line →
    line.head? ≠ some atSign → s.inbox = ⟨.line line iv, now⟩ :: rest →
    (line.length ≤ cap (layoutInForce s.key) → step s = exec (.shout line iv) (s.serving now rest)) ∧
    (cap (layoutInForce s.key) < line.length → step s = .next (s.complaining now rest (.payloadTooLarge line.length)))

/-- R194, R190: `/help` and `/date` emit their event, whatever follows the word; the empty line does nothing. -/
def Obligations.HelpDateAndEmptyLines : Prop :=
  ∀ (s : State) (junk : List Byte) (iv : Iv) (now : TimeValue) (rest : List Request), (junk = [] ∨ junk.head? = some space) →
    (s.inbox = ⟨.line (helpWord ++ junk) iv, now⟩ :: rest →
      step s = .next (s.after now rest (some (okay .none [.helpText])) [.helpText])) ∧
    (s.inbox = ⟨.line (dateWord ++ junk) iv, now⟩ :: rest →
      step s = .next (s.after now rest (some (okay .none [.dateReport now])) [.dateReport now])) ∧
    (s.inbox = ⟨.line [] iv, now⟩ :: rest → step s = .next (s.after now rest none []))

/-- R195, R196, R198: the key and self-test lines. An argument other than the characters 0 and 1 is read by `parse_hex_bytes`,
digits of either case (R197). The three words are OPEN; that they are words apart from each other and from the fixed ones is a
hypothesis (log entry 6); the report of a status is log entry 7. -/
def Obligations.KeyLinesReachKeyOperations : Prop :=
  ∀ (s : State) (lit arg junk : List Byte) (iv : Iv) (now : TimeValue) (rest : List Request), WordsApart s.cfg →
    space ∉ arg → (junk = [] ∨ junk.head? = some space) →
    (s.inbox = ⟨.line (s.cfg.keyWord ++ space :: (hexText lit ++ junk)) iv, now⟩ :: rest →
      (1 ≤ lit.length → lit.length ≤ s.cfg.keySize.bytes →
        step s = exec (.keySetLiteral lit) (s.serving now rest)) ∧
      (lit = [] ∨ s.cfg.keySize.bytes < lit.length → step s = .next (s.complaining now rest .argumentError))) ∧
    (s.inbox = ⟨.line (s.cfg.keyWord ++ space :: (arg ++ junk)) iv, now⟩ :: rest → arg ≠ [0x30#8] → arg ≠ [0x31#8] →
      (parseHexBytes arg = some lit → lit.length ≤ s.cfg.keySize.bytes →
        step s = exec (.keySetLiteral lit) (s.serving now rest)) ∧
      (parseHexBytes arg = some lit → s.cfg.keySize.bytes < lit.length →
        step s = .next (s.complaining now rest .argumentError)) ∧
      (arg = [] ∨ arg.length % 2 = 1 ∨ (∃ c ∈ arg, hexVal c = none) →
        step s = .next (s.complaining now rest .argumentError))) ∧
    (s.inbox = ⟨.line s.cfg.keyWord iv, now⟩ :: rest → step s = .next (s.complaining now rest .argumentError)) ∧
    (s.inbox = ⟨.line (s.cfg.keyWord ++ space :: 0x30#8 :: junk) iv, now⟩ :: rest →
      (1 ≤ s.cfg.keystore0.bytes.length → s.cfg.keystore0.bytes.length ≤ s.cfg.keySize.bytes →
        step s = exec (.keySetIndex 0#8) (s.serving now rest)) ∧
      (s.cfg.keystore0.bytes.length = 0 ∨ s.cfg.keySize.bytes < s.cfg.keystore0.bytes.length →
        step s = .next (s.complaining now rest .argumentError))) ∧
    (s.inbox = ⟨.line (s.cfg.keyWord ++ space :: 0x31#8 :: junk) iv, now⟩ :: rest →
      (1 ≤ s.cfg.keystore1.bytes.length → s.cfg.keystore1.bytes.length ≤ s.cfg.keySize.bytes →
        step s = exec (.keySetIndex 1#8) (s.serving now rest)) ∧
      (s.cfg.keystore1.bytes.length = 0 ∨ s.cfg.keySize.bytes < s.cfg.keystore1.bytes.length →
        step s = .next (s.complaining now rest .argumentError))) ∧
    (s.inbox = ⟨.line (s.cfg.keyClearWord ++ junk) iv, now⟩ :: rest →
      step s = exec .keyClear (s.serving now rest)) ∧
    (s.inbox = ⟨.line (s.cfg.selftestWord ++ junk) iv, now⟩ :: rest →
      (s.key.valid = true → step s = exec .selftest (s.serving now rest)) ∧
      (s.key.valid = false → step s = .next (s.complaining now rest .noKey)))
end

