-- ==== Sys2Proof/Laws/Bytes.lean ====
section
/-! SUPPORT. Reading and writing buffers: the laws of `memRead`, `memWrite` and byte order. -/

namespace Sys2Proof.Machine

/-! ## Single bytes -/

theorem byteAt_of_le {bs : List Byte} {i : Nat} (h : bs.length ≤ i) : byteAt bs i = 0#8 := by
  simp [byteAt, List.getD, List.getElem?_eq_none h]

@[simp] theorem byteAt_nil (i : Nat) : byteAt [] i = 0#8 := by simp [byteAt]
@[simp] theorem byteAt_cons_zero (b : Byte) (bs : List Byte) : byteAt (b :: bs) 0 = b := by simp [byteAt]
@[simp] theorem byteAt_cons_succ (b : Byte) (bs : List Byte) (i : Nat) : byteAt (b :: bs) (i + 1) = byteAt bs i := by
  simp [byteAt]

theorem byteAt_drop (bs : List Byte) (o i : Nat) : byteAt (bs.drop o) i = byteAt bs (o + i) := by
  simp [byteAt, List.getD, List.getElem?_drop]

theorem byteAt_take (bs : List Byte) (n i : Nat) : byteAt (bs.take n) i = if i < n then byteAt bs i else 0#8 := by
  by_cases h : i < n <;> simp [byteAt, List.getD, h]

theorem byteAt_append (a b : List Byte) (i : Nat) :
    byteAt (a ++ b) i = if i < a.length then byteAt a i else byteAt b (i - a.length) := by
  by_cases h : i < a.length
  · simp [byteAt, List.getD, List.getElem?_append_left h, h]
  · simp [byteAt, List.getD, List.getElem?_append_right (Nat.le_of_not_lt h), h]

@[simp] theorem byteAt_zeros (n i : Nat) : byteAt (zeros n) i = 0#8 := by
  by_cases h : i < n <;> simp [byteAt, zeros, List.getD, h]

/-- Byte strings of one length are equal when their bytes are. -/
theorem ext_byteAt {a b : List Byte} (hl : a.length = b.length) (h : ∀ i < a.length, byteAt a i = byteAt b i) : a = b := by
  apply List.ext_getElem hl
  intro i h1 h2
  have := h i h1
  simpa [byteAt, List.getD, List.getElem?_eq_getElem h1, List.getElem?_eq_getElem h2] using this

/-- Buffers are equal when their bytes are. -/
theorem ext_at {n : Nat} {B C : Bytes n} (h : ∀ i < n, B.at i = C.at i) : B = C := by
  have hl : B.list = C.list := ext_byteAt (by rw [B.len, C.len]) fun i hi => h i (by rw [← B.len]; exact hi)
  cases B; cases C; cases hl; rfl

/-! ## Reading -/

theorem memRead_length {m : Nat} (B : Bytes m) {o n : Nat} (h : o + n ≤ m) : (memRead B o n).length = n := by
  have := B.len
  simp only [memRead, List.length_take, List.length_drop]
  omega

theorem byteAt_memRead {m : Nat} (B : Bytes m) (o n i : Nat) :
    byteAt (memRead B o n) i = if i < n then B.at (o + i) else 0#8 := by
  simp only [memRead, byteAt_take, byteAt_drop, Bytes.at]

/-- Two buffers that agree on a range read the same there. -/
theorem memRead_congr {m : Nat} {B C : Bytes m} {o n : Nat} (h : ∀ i < n, B.at (o + i) = C.at (o + i)) :
    memRead B o n = memRead C o n := by
  apply ext_byteAt
  · have := B.len; have := C.len
    simp only [memRead, List.length_take, List.length_drop]; omega
  · intro i _
    simp only [byteAt_memRead]
    split
    · exact h i ‹_›
    · rfl

/-- Reading inside a range that was read. -/
theorem memRead_take {m : Nat} (B : Bytes m) (o n k : Nat) (h : k ≤ n) : (memRead B o n).take k = memRead B o k := by
  simp only [memRead, List.take_take, Nat.min_eq_left h]

theorem memRead_drop {m : Nat} (B : Bytes m) (o n k : Nat) : (memRead B o n).drop k = memRead B (o + k) (n - k) := by
  simp only [memRead, List.drop_take, List.drop_drop]

/-- A buffer read whole. -/
theorem memRead_all {m : Nat} (B : Bytes m) : memRead B 0 m = B.list := by
  simp [memRead, List.take_of_length_le (Nat.le_of_eq B.len)]

/-! ## Writing -/

/-- Each byte after a write: the new one inside the range written, the old one outside. -/
theorem byteAt_overlay (bs : List Byte) (o : Nat) (v : List Byte) (i : Nat) :
    byteAt (overlay bs o v) i = if o ≤ i ∧ i < o + v.length ∧ i < bs.length then byteAt v (i - o) else byteAt bs i := by
  induction bs, o, v using overlay.induct generalizing i with
  | case1 => simp [overlay]
  | case2 => simp [overlay]
  | case3 head bs x v ih =>
    cases i with
    | zero => simp [overlay]
    | succ i => simp [overlay, ih]
  | case4 head bs o v ih =>
    cases i with
    | zero => simp [overlay]
    | succ i =>
      simp only [overlay, byteAt_cons_succ, ih, List.length_cons]
      have : (i + 1 < o + 1 + v.length) ↔ (i < o + v.length) := by omega
      simp [this]

/-- Each byte after `MemWrite`. -/
theorem at_memWrite {m : Nat} (B : Bytes m) (o : Nat) (v : List Byte) (i : Nat) :
    (memWrite B o v).at i = if o ≤ i ∧ i < o + v.length ∧ i < m then byteAt v (i - o) else B.at i := by
  simp only [Bytes.at, memWrite, byteAt_overlay, B.len]

/-- A byte outside the range written is as before. -/
theorem at_memWrite_of_outside {m : Nat} (B : Bytes m) {o i : Nat} {v : List Byte} (h : i < o ∨ o + v.length ≤ i) :
    (memWrite B o v).at i = B.at i := by
  rw [at_memWrite, if_neg (by omega)]

/-- A range outside the bytes written reads as before. -/
theorem memRead_memWrite_of_outside {m : Nat} (B : Bytes m) {o k n : Nat} {v : List Byte}
    (h : k + n ≤ o ∨ o + v.length ≤ k) : memRead (memWrite B o v) k n = memRead B k n :=
  memRead_congr fun _ _ => at_memWrite_of_outside B (by omega)

/-- What was written reads back. -/
theorem memRead_memWrite {m : Nat} (B : Bytes m) {o n : Nat} {v : List Byte} (hn : v.length = n) (h : o + n ≤ m) :
    memRead (memWrite B o v) o n = v := by
  subst hn
  apply ext_byteAt (memRead_length _ h)
  intro i hi
  rw [memRead_length _ h] at hi
  rw [byteAt_memRead, if_pos hi, at_memWrite, if_pos ⟨by omega, by omega, by omega⟩]
  congr 1
  omega

/-- A single byte written reads back. -/
theorem at_memWrite_byte {m : Nat} (B : Bytes m) {o : Nat} (b : Byte) (h : o < m) : (memWrite B o [b]).at o = b := by
  rw [at_memWrite, if_pos ⟨Nat.le_refl _, by simp, h⟩]
  simp

/-- A write over a write of the same range: the last one stands. -/
theorem memWrite_memWrite {m : Nat} (B : Bytes m) (o : Nat) {v w : List Byte} (h : v.length = w.length) :
    memWrite (memWrite B o v) o w = memWrite B o w := by
  apply ext_at
  intro i _
  simp only [at_memWrite, h]
  split <;> rfl

/-- Writing what is there changes nothing. -/
theorem memWrite_self {m : Nat} (B : Bytes m) {o : Nat} {v : List Byte} (h : memRead B o v.length = v) :
    memWrite B o v = B := by
  apply ext_at
  intro i _
  rw [at_memWrite]
  split
  · rw [← h, byteAt_memRead, if_pos (by omega)]
    congr 1; omega
  · rfl

/-! ## Byte order -/

@[simp] theorem toLe32_length (v : BitVec 32) : (toLe32 v).length = 4 := rfl
@[simp] theorem toBe32_length (v : BitVec 32) : (toBe32 v).length = 4 := rfl
@[simp] theorem crcBytes_length (o : ByteOrder) (v : BitVec 32) : (crcBytes o v).length = 4 := by cases o <;> rfl

theorem le32_toLe32 (v : BitVec 32) : le32 (toLe32 v) = v := by
  apply BitVec.eq_of_getLsbD_eq
  intro i hi
  simp only [le32, toLe32, byteAt_cons_succ, byteAt_cons_zero]
  simp only [BitVec.getLsbD_append, BitVec.getLsbD_setWidth, BitVec.getLsbD_ushiftRight]
  by_cases h0 : i < 8
  · simp [h0]
  · by_cases h1 : i - 8 < 8
    · simp [h0, h1, show 8 + (i - 8) = i by omega]
    · by_cases h2 : i - 8 - 8 < 8
      · simp [h0, h1, h2, show 16 + (i - 8 - 8) = i by omega]
      · simp [h0, h1, h2, show 24 + (i - 8 - 8 - 8) = i by omega, show i - 8 - 8 - 8 < 8 by omega]

theorem be32_toBe32 (v : BitVec 32) : be32 (toBe32 v) = v := le32_toLe32 v

/-- A `crc` value put into its field reads back. -/
theorem crcValue_crcBytes (o : ByteOrder) (v : BitVec 32) : crcValue o (crcBytes o v) = v := by
  cases o
  · exact le32_toLe32 v
  · exact be32_toBe32 v

end Sys2Proof.Machine
end

