-- ==== Sys2Proof/Laws/Cipher.lean ====
section
/-! SUPPORT. Blocks and byte strings, the chaining mode over lists of blocks, and what the transform of a frame leaves alone. -/

namespace Sys2Proof.Machine

/-! ## Exclusive or -/

@[simp] theorem AesWord.xor_xor_cancel (x y : AesWord) : (x.xor y).xor y = x := by
  cases x; cases y; simp [AesWord.xor]

@[simp] theorem Block.xor_xor_cancel (x y : Block) : (x.xor y).xor y = x := by cases x; cases y; simp [Block.xor]

/-! ## Blocks and bytes -/

@[simp] theorem Block.bytes_length (x : Block) : x.bytes.length = ivtSize := rfl

@[simp] theorem Block.ofBytes_bytes (x : Block) (r : List Byte) : Block.ofBytes (x.bytes ++ r) = x := by
  simp [Block.ofBytes, Block.bytes, AesWord.ofBytes, AesWord.bytes]

/-- Sixteen bytes are the bytes of their block. -/
theorem Block.bytes_ofBytes {bs : List Byte} (h : bs.length = ivtSize) : (Block.ofBytes bs).bytes = bs := by
  apply ext_byteAt (by simp [h])
  intro i hi
  have hi : i < 16 := hi
  interval_cases i <;> simp [Block.ofBytes, Block.bytes, AesWord.ofBytes, AesWord.bytes, byteAt_drop]

@[simp] theorem blockBytes_length (bs : List Block) : (blockBytes bs).length = ivtSize * bs.length := by
  induction bs with
  | nil => rfl
  | cons b bs ih => simp [blockBytes, ih, Nat.mul_succ, Nat.add_comm]

@[simp] theorem blocksOf_length (n : Nat) (bs : List Byte) : (blocksOf n bs).length = n := by
  induction n generalizing bs with
  | zero => rfl
  | succ n ih => simp [blocksOf, ih]

/-- Blocks read back from their bytes. -/
theorem blocksOf_blockBytes (bs : List Block) : blocksOf bs.length (blockBytes bs) = bs := by
  induction bs with
  | nil => rfl
  | cons b bs ih => simp [blocksOf, blockBytes, List.drop_left' (Block.bytes_length b), ih]

/-- A whole number of blocks is the bytes of its blocks. -/
theorem blockBytes_blocksOf {n : Nat} {bs : List Byte} (h : bs.length = ivtSize * n) : blockBytes (blocksOf n bs) = bs := by
  induction n generalizing bs with
  | zero => simpa [blocksOf, blockBytes] using (List.length_eq_zero_iff.1 (by simpa using h)).symm
  | succ n ih =>
    have h1 : (bs.take ivtSize).length = ivtSize := by simp only [List.length_take, h, ivtSize]; omega
    have h2 : (bs.drop ivtSize).length = ivtSize * n := by simp only [List.length_drop, h, ivtSize]; omega
    have h3 : Block.ofBytes bs = Block.ofBytes (bs.take ivtSize) := by
      simp [Block.ofBytes, AesWord.ofBytes, byteAt_drop, byteAt_take, ivtSize]
    rw [blocksOf, blockBytes, ih h2, h3, Block.bytes_ofBytes h1, List.take_append_drop]

/-! ## Chaining -/

@[simp] theorem cbcEncrypt_length (enc : Block → Block) (iv : Block) (ps : List Block) :
    (cbcEncrypt enc iv ps).length = ps.length := by
  induction ps generalizing iv with
  | nil => rfl
  | cons p ps ih => simp [cbcEncrypt, ih]

@[simp] theorem cbcDecrypt_length (dec : Block → Block) (iv : Block) (cs : List Block) :
    (cbcDecrypt dec iv cs).length = cs.length := by
  induction cs generalizing iv with
  | nil => rfl
  | cons c cs ih => simp [cbcDecrypt, ih]

/-- Chaining is undone under a block function that is undone. -/
theorem cbcDecrypt_cbcEncrypt {enc dec : Block → Block} (h : ∀ x, dec (enc x) = x) (iv : Block) (ps : List Block) :
    cbcDecrypt dec iv (cbcEncrypt enc iv ps) = ps := by
  induction ps generalizing iv with
  | nil => rfl
  | cons p ps ih => simp [cbcEncrypt, cbcDecrypt, h, ih]

/-- And the other way round. -/
theorem cbcEncrypt_cbcDecrypt {enc dec : Block → Block} (h : ∀ x, enc (dec x) = x) (iv : Block) (cs : List Block) :
    cbcEncrypt enc iv (cbcDecrypt dec iv cs) = cs := by
  induction cs generalizing iv with
  | nil => rfl
  | cons c cs ih => simp [cbcEncrypt, cbcDecrypt, h, ih]

/-! ## The transform of a frame -/

theorem payloadBlocks_length (B : Frame) : (payloadBlocks B).length = cipherBlocks := blocksOf_length _ _

/-- A byte outside 32..207 is copied through (R117, R118). -/
theorem at_memWrite_payload (B : Frame) (bs : List Block) (hl : bs.length = cipherBlocks) {i : Nat} (h : i < 32 ∨ 208 ≤ i) :
    (memWrite B (off .S .payload) (blockBytes bs)).at i = B.at i := by
  apply at_memWrite_of_outside
  simp only [blockBytes_length, hl, off, ivtSize, cipherBlocks]
  omega

theorem at_encryptFrame (cfg : Config) (K : List Byte) (P : Frame) {i : Nat} (h : i < 32 ∨ 208 ≤ i) :
    (encryptFrame cfg K P).at i = P.at i := at_memWrite_payload P _ (by simp [payloadBlocks_length]) h

theorem at_decryptFrame (cfg : Config) (K : List Byte) (C : Frame) {i : Nat} (h : i < 32 ∨ 208 ≤ i) :
    (decryptFrame cfg K C).at i = C.at i := at_memWrite_payload C _ (by simp [payloadBlocks_length]) h

/-- The blocks written into the payload region read back. -/
theorem payloadBlocks_memWrite (B : Frame) (bs : List Block) (hl : bs.length = cipherBlocks) :
    payloadBlocks (memWrite B (off .S .payload) (blockBytes bs)) = bs := by
  have h : (blockBytes bs).length = cap .S := by simp [hl, ivtSize, cipherBlocks, cap]
  rw [payloadBlocks, memRead_memWrite B h (by decide), ← hl, blocksOf_blockBytes]

theorem payloadBlocks_encryptFrame (cfg : Config) (K : List Byte) (P : Frame) :
    payloadBlocks (encryptFrame cfg K P) = cbcEncrypt (aesEnc cfg.keySize K) (ivBlock P) (payloadBlocks P) :=
  payloadBlocks_memWrite P _ (by simp [payloadBlocks_length])

theorem payloadBlocks_decryptFrame (cfg : Config) (K : List Byte) (C : Frame) :
    payloadBlocks (decryptFrame cfg K C) = cbcDecrypt (aesDec cfg.keySize K) (ivBlock C) (payloadBlocks C) :=
  payloadBlocks_memWrite C _ (by simp [payloadBlocks_length])

theorem ivBlock_encryptFrame (cfg : Config) (K : List Byte) (P : Frame) : ivBlock (encryptFrame cfg K P) = ivBlock P := by
  simp only [ivBlock]
  congr 1
  exact memRead_congr fun i hi => at_encryptFrame cfg K P (.inl (by simp only [ivtOff, ivtSize] at *; omega))

theorem ivBlock_decryptFrame (cfg : Config) (K : List Byte) (C : Frame) : ivBlock (decryptFrame cfg K C) = ivBlock C := by
  simp only [ivBlock]
  congr 1
  exact memRead_congr fun i hi => at_decryptFrame cfg K C (.inl (by simp only [ivtOff, ivtSize] at *; omega))

/-- The payload region is the bytes of its blocks. -/
theorem memWrite_payloadBlocks (B : Frame) : memWrite B (off .S .payload) (blockBytes (payloadBlocks B)) = B := by
  have h : blockBytes (payloadBlocks B) = memRead B (off .S .payload) (cap .S) :=
    blockBytes_blocksOf (memRead_length B (by decide))
  rw [h]
  apply memWrite_self
  rw [memRead_length B (by decide)]

end Sys2Proof.Machine
end

