-- ==== Sys2Proof/Laws/Decode.lean ====
section
/-! SUPPORT. The laws of taking operands off a byte string: what the encoder puts there is what is taken, and nothing else. -/

namespace Sys2Proof

theorem Bytes.eq_of_list {n : Nat} {B C : Bytes n} (h : B.list = C.list) : B = C := by
  cases B; cases C; cases h; rfl

/-! ## Taking what was put -/

@[simp] theorem takeBytes_append {n : Nat} (B : Bytes n) (r : List Byte) : takeBytes n (B.list ++ r) = some (B, r) := by
  have h : (B.list ++ r).take n = B.list := by rw [List.take_append_of_le_length (Nat.le_of_eq B.len.symm)]; simp [← B.len]
  have g : (B.list ++ r).drop n = r := List.drop_left' B.len
  unfold takeBytes
  rw [dif_pos (by rw [h]; exact B.len)]
  simp only [h, g]

@[simp] theorem takeBytes_self {n : Nat} (B : Bytes n) : takeBytes n B.list = some (B, []) := by
  simpa using takeBytes_append B []

@[simp] theorem splitLast_append {n : Nat} (m : List Byte) (B : Bytes n) : splitLast n (m ++ B.list) = some (m, B) := by
  have hl : (m ++ B.list).length - n = m.length := by simp [B.len]
  unfold splitLast
  rw [dif_pos (by rw [hl, List.drop_left, B.len])]
  simp only [hl, List.drop_left, List.take_left]

@[simp] theorem whole_nil {α : Type} (a : α) : whole (some (a, [])) = some a := rfl

@[simp] theorem takeLayout_encode (L : Layout) (r : List Byte) : takeLayout (encodeLayout L :: r) = some (L, r) := by
  cases L <;> simp [takeLayout, encodeLayout]

@[simp] theorem takeFrameIv_append (B : Frame) (iv : Iv) : takeFrameIv (B.list ++ iv.list) = some (B, iv) := by
  simp [takeFrameIv]

/-! ## What was taken was there -/

theorem takeBytes_some {n : Nat} {bs r : List Byte} {B : Bytes n} (h : takeBytes n bs = some (B, r)) : bs = B.list ++ r := by
  unfold takeBytes at h
  split at h
  · cases h; simp
  · cases h

theorem splitLast_some {n : Nat} {bs m : List Byte} {B : Bytes n} (h : splitLast n bs = some (m, B)) : bs = m ++ B.list := by
  unfold splitLast at h
  split at h
  · cases h; simp
  · cases h

theorem whole_some {α : Type} {x : Option (α × List Byte)} {a : α} (h : whole x = some a) : x = some (a, []) := by
  unfold whole at h
  split at h
  · cases h; rfl
  · cases h

theorem takeByte_some {bs r : List Byte} {b : Byte} (h : takeByte bs = some (b, r)) : bs = b :: r := by
  unfold takeByte at h
  split at h
  · cases h; rfl
  · cases h

theorem takeLayout_some {bs r : List Byte} {L : Layout} (h : takeLayout bs = some (L, r)) : bs = encodeLayout L :: r := by
  unfold takeLayout at h
  split at h
  · split at h
    · cases h; subst_vars; rfl
    · split at h
      · cases h; subst_vars; rfl
      · cases h
  · cases h

theorem takeFrameIv_some {bs : List Byte} {B : Frame} {iv : Iv} (h : takeFrameIv bs = some (B, iv)) :
    bs = B.list ++ iv.list := by
  simp only [takeFrameIv, Option.bind_eq_bind, Option.bind_eq_some_iff, Option.pure_def, Option.some.injEq,
    Prod.mk.injEq] at h
  obtain ⟨⟨B', r⟩, h1, iv', h2, rfl, rfl⟩ := h
  have hr : r = iv'.list := by simpa using takeBytes_some (whole_some h2)
  simpa [hr] using takeBytes_some h1

/-! ## The protocol-id map -/

/-- A byte's class is a row that it matches. -/
theorem rowMatches_of_classOf {p : Byte} {c : ProtoClass} (h : classOf p = some c) : rowMatches c.pattern c.mask p = true := by
  simpa using List.find?_some h

/-- The opcode byte of a word of format `PROTO_F` or `PROTO_S` is the frame's `protocol` byte. -/
theorem byteAt_encodeProto (B : Frame) (iv : Iv) (L : Layout) :
    byteAt (encodeProto B iv) L.protocolOffset = protocolByte L B := by
  rw [encodeProto, Machine.byteAt_append, if_pos (by rw [B.len]; cases L <;> decide)]
  rfl

end Sys2Proof
end

