-- ==== Sys2Proof/Laws/State.lean ====
section
/-! SUPPORT. One lemma per field per update of the state, and of the responses the shared operations build. -/

namespace Sys2Proof.Machine

/-! ## Responses -/

@[simp] theorem returns_status (v : Value) (e : List Event) : (Response.returns v e).status = .ok := rfl
@[simp] theorem returns_route (v : Value) (e : List Event) : (Response.returns v e).route = none := rfl
@[simp] theorem returns_value (v : Value) (e : List Event) : (Response.returns v e).value = v := rfl
@[simp] theorem returns_events (v : Value) (e : List Event) : (Response.returns v e).events = e := rfl
@[simp] theorem raises_status (st : Status) (e : List Event) : (Response.raises st e).status = st := rfl
@[simp] theorem raises_route (st : Status) (e : List Event) : (Response.raises st e).route = none := rfl
@[simp] theorem raises_value (st : Status) (e : List Event) : (Response.raises st e).value = .none := rfl
@[simp] theorem raises_events (st : Status) (e : List Event) : (Response.raises st e).events = e := rfl
@[simp] theorem routed_status (rt : Route) (r : Response) : (r.routed rt).status = r.status := rfl
@[simp] theorem routed_route (rt : Route) (r : Response) : (r.routed rt).route = some rt := rfl
@[simp] theorem routed_value (rt : Route) (r : Response) : (r.routed rt).value = r.value := rfl
@[simp] theorem routed_events (rt : Route) (r : Response) : (r.routed rt).events = r.events := rfl
@[simp] theorem withEvent_status (r : Response) (e : Event) : (r.withEvent e).status = r.status := rfl
@[simp] theorem withEvent_route (r : Response) (e : Event) : (r.withEvent e).route = r.route := rfl
@[simp] theorem withEvent_value (r : Response) (e : Event) : (r.withEvent e).value = r.value := rfl
@[simp] theorem withEvent_events (r : Response) (e : Event) : (r.withEvent e).events = r.events ++ [e] := rfl

/-! ## Delivering a response -/

section
variable (s : State) (r : Response)

@[simp] theorem deliver_seq : (s.deliver r).seq = .dispatchIdle := rfl
@[simp] theorem deliver_key : (s.deliver r).key = s.key := rfl
@[simp] theorem deliver_callback : (s.deliver r).callback = s.callback := rfl
@[simp] theorem deliver_cfg : (s.deliver r).cfg = s.cfg := rfl
@[simp] theorem deliver_now : (s.deliver r).now = s.now := rfl
@[simp] theorem deliver_inbox : (s.deliver r).inbox = s.inbox := rfl
@[simp] theorem deliver_resp : (s.deliver r).resp = some r := rfl
@[simp] theorem deliver_log : (s.deliver r).log = s.log ++ r.events := rfl

/-! ## Returning nothing -/

@[simp] theorem noReply_key : s.noReply.key = s.key := rfl
@[simp] theorem noReply_callback : s.noReply.callback = s.callback := rfl
@[simp] theorem noReply_cfg : s.noReply.cfg = s.cfg := rfl
@[simp] theorem noReply_now : s.noReply.now = s.now := rfl
@[simp] theorem noReply_inbox : s.noReply.inbox = s.inbox := rfl
@[simp] theorem noReply_resp : s.noReply.resp = none := rfl
@[simp] theorem noReply_log : s.noReply.log = s.log := rfl

/-! ## The reset transition and the callback -/

@[simp] theorem powerUp_key : s.powerUp.key = KeyReg.absent s.cfg.keySize := rfl
@[simp] theorem powerUp_callback : s.powerUp.callback = false := rfl
@[simp] theorem powerUp_cfg : s.powerUp.cfg = s.cfg := rfl
@[simp] theorem powerUp_now : s.powerUp.now = s.now := rfl
@[simp] theorem powerUp_inbox : s.powerUp.inbox = s.inbox := rfl
@[simp] theorem powerUp_resp : s.powerUp.resp = none := rfl
@[simp] theorem powerUp_log : s.powerUp.log = s.log := rfl

@[simp] theorem registered_key : s.registered.key = s.key := rfl
@[simp] theorem registered_callback : s.registered.callback = true := rfl
@[simp] theorem registered_cfg : s.registered.cfg = s.cfg := rfl
@[simp] theorem registered_now : s.registered.now = s.now := rfl
@[simp] theorem registered_inbox : s.registered.inbox = s.inbox := rfl
@[simp] theorem registered_resp : s.registered.resp = none := rfl
@[simp] theorem registered_log : s.registered.log = s.log := rfl

/-! ## Taking a request -/

variable (q : Request) (rest : List Request)

@[simp] theorem taking_seq : (s.taking q rest).seq = s.seq := rfl
@[simp] theorem taking_key : (s.taking q rest).key = s.key := rfl
@[simp] theorem taking_callback : (s.taking q rest).callback = s.callback := rfl
@[simp] theorem taking_cfg : (s.taking q rest).cfg = s.cfg := rfl
@[simp] theorem taking_now : (s.taking q rest).now = q.now := rfl
@[simp] theorem taking_inbox : (s.taking q rest).inbox = rest := rfl
@[simp] theorem taking_resp : (s.taking q rest).resp = s.resp := rfl
@[simp] theorem taking_log : (s.taking q rest).log = s.log := rfl

end

/-! ## Reporting a status -/

/-- Reporting changes nothing where the response is `OK`. -/
theorem reported_of_ok (s : State) (r : Response) (h : s.resp = some r) (ok : r.status = .ok) : s.reported = s := by
  simp [State.reported, h, ok]

@[simp] theorem reported_key (s : State) : s.reported.key = s.key := by unfold State.reported; split <;> [rfl; (split <;> rfl)]
@[simp] theorem reported_cfg (s : State) : s.reported.cfg = s.cfg := by unfold State.reported; split <;> [rfl; (split <;> rfl)]
@[simp] theorem reported_now (s : State) : s.reported.now = s.now := by unfold State.reported; split <;> [rfl; (split <;> rfl)]
@[simp] theorem reported_inbox (s : State) : s.reported.inbox = s.inbox := by
  unfold State.reported; split <;> [rfl; (split <;> rfl)]
@[simp] theorem reported_callback (s : State) : s.reported.callback = s.callback := by
  unfold State.reported; split <;> [rfl; (split <;> rfl)]

/-- Reporting appends at most one event, never a `send`. -/
theorem reported_log (s : State) : s.reported.log = s.log ∨ ∃ st, s.reported.log = s.log ++ [.commandError st] := by
  unfold State.reported
  split
  · exact .inl rfl
  · split
    · exact .inl rfl
    · exact .inr ⟨_, rfl⟩

/-! ## Writing the key register -/

/-- What writing the key register can do: it always completes; a register is written whole with `OK`, or a status is raised and
`KEY` is as before. -/
theorem writeKey_cases (s : State) (r : Except Status KeyReg) :
    (∃ k, r = .ok k ∧ writeKey s r = .next (State.deliver { s with key := k } (Response.returns .none []))) ∨
      (∃ st, r = .error st ∧ writeKey s r = .next (s.deliver (Response.raises st []))) := by
  cases r with
  | ok k => exact .inl ⟨k, rfl, rfl⟩
  | error st => exact .inr ⟨st, rfl, rfl⟩

end Sys2Proof.Machine
end

