-- ==== Sys2Proof/Laws/Ops.lean ====
section
/-! SUPPORT. For each shared operation of the machine, once, everything it can do. -/

namespace Sys2Proof.Machine

/-! ## Building a frame (R91) -/

/-- `FRAME_BUILD` gives a frame when the message fits, and `PayloadTooLarge` with its length when it does not. -/
theorem buildFrame_cases (cfg : Config) (L : Layout) (src dst proto : Byte) (msg : List Byte) (iv : Iv) :
    (msg.length ≤ cap L ∧ buildFrame cfg L src dst proto msg iv = .ok (shapeFrame cfg L src dst proto msg iv)) ∨
      (cap L < msg.length ∧ buildFrame cfg L src dst proto msg iv = .error (.payloadTooLarge msg.length)) := by
  unfold buildFrame
  by_cases h : cap L < msg.length
  · exact .inr ⟨h, by simp [h]⟩
  · exact .inl ⟨Nat.le_of_not_lt h, by simp [h]⟩

section
variable (cfg : Config) (L : Layout) (src dst proto : Byte) (msg : List Byte) (iv : Iv)

/-- Every byte of a built frame. -/
theorem at_shapeFrame (i : Nat) :
    (shapeFrame cfg L src dst proto msg iv).at i =
      if off L .payload ≤ i ∧ i < off L .payload + msg.length ∧ i < frameSize then byteAt msg (i - off L .payload)
      else if i = off L .length then BitVec.ofNat 8 msg.length
      else if i = off L .protocol then proto
      else if L = .S ∧ 4 ≤ i ∧ i < 20 then byteAt iv.list (i - 4)
      else if i = 3 then dst
      else if i = 2 then src
      else byteAt cfg.magic.list i := by
  have he : ∀ i, emptyFrame.at i = 0#8 := fun i => byteAt_zeros _ i
  have hm : cfg.magic.list.length = 2 := cfg.magic.len
  have hv : iv.list.length = 16 := iv.len
  unfold shapeFrame
  simp only [at_memWrite, List.length_singleton]
  split
  · rfl
  · have hl : off L .length < frameSize := by cases L <;> decide
    have hp : off L .protocol < frameSize := by cases L <;> decide
    by_cases h1 : i = off L .length
    · subst h1
      simp [hl]
    · rw [if_neg (by omega), if_neg h1]
      by_cases h2 : i = off L .protocol
      · subst h2
        simp [hp]
      · rw [if_neg (by omega), if_neg h2]
        have base : (memWrite (memWrite (memWrite emptyFrame (off L .magic) cfg.magic.list) (off L .source) [src])
            (off L .destination) [dst]).at i = if i = 3 then dst else if i = 2 then src else byteAt cfg.magic.list i := by
          have o1 : off L .destination = 3 := by cases L <;> rfl
          have o2 : off L .source = 2 := by cases L <;> rfl
          have o3 : off L .magic = 0 := by cases L <;> rfl
          simp only [at_memWrite, o1, o2, o3, hm, List.length_singleton, he]
          by_cases a : i = 3
          · subst a; simp [frameSize]
          · rw [if_neg (by omega), if_neg a]
            by_cases b : i = 2
            · subst b; simp [frameSize]
            · rw [if_neg (by omega), if_neg b]
              split
              · simp
              · rw [byteAt_of_le (by simp only [frameSize] at *; omega)]
        cases L with
        | F => simpa using base
        | S =>
          rw [at_memWrite, hv]
          by_cases c : 4 ≤ i ∧ i < 20
          · rw [if_pos (by simp only [ivtOff, frameSize]; omega), if_pos ⟨rfl, c⟩]
            rfl
          · rw [if_neg (by simp only [ivtOff, frameSize]; omega), if_neg (fun h => c h.2)]
            exact base

end

/-! ## The CRC (R93) -/

/-- The register after `D` is the fold of the bytes. -/
theorem crcRegister_eq_foldl (P : CrcParams) (reg : BitVec P.width) (D : List Byte) :
    crcRegister P reg D = D.foldl (crcByte P) reg := by
  induction D generalizing reg with
  | nil => rfl
  | cons b bs ih =>
    simp only [crcRegister, List.foldl_cons]
    split
    · rename_i h
      rw [ih, show crcByte P reg b = 0 from BitVec.eq_of_toNat_eq (by simpa using h)]
    · rename_i n h
      rw [ih, show BitVec.ofNat P.width (n + 1) = crcByte P reg b by rw [← Nat.succ_eq_add_one, ← h]; simp]

/-! ## The trailer (R96, R97) -/

/-- The trailer's own bytes are not covered: frames that agree on bytes 0..207 have one CRC (R95). -/
theorem crcOf_congr (cfg : Config) {B C : Frame} (h : ∀ i < 208, B.at i = C.at i) : crcOf cfg B = crcOf cfg C := by
  unfold crcOf
  rw [memRead_congr (B := B) (C := C) fun i hi => by simpa using h i hi]

/-- `CRC_GEN` leaves every byte before the trailer alone. -/
theorem at_crcGenFrame (cfg : Config) (B : Frame) {i : Nat} (h : i < 208) : (crcGenFrame cfg B).at i = B.at i :=
  at_memWrite_of_outside B (.inl h)

theorem crcOf_crcGenFrame (cfg : Config) (B : Frame) : crcOf cfg (crcGenFrame cfg B) = crcOf cfg B :=
  crcOf_congr cfg fun _ h => at_crcGenFrame cfg B h

theorem storedCrc_crcGenFrame (cfg : Config) (B : Frame) : storedCrc cfg (crcGenFrame cfg B) = crcOf cfg B := by
  rw [storedCrc, crcGenFrame]
  simp only [off]
  rw [memRead_memWrite B (crcBytes_length _ _) (by decide), crcValue_crcBytes]

/-- `CRC_CHECK` returns `OK` or `BadCrc` with both values. -/
theorem crcCheckFrame_cases (cfg : Config) (B : Frame) :
    (storedCrc cfg B = crcOf cfg B ∧ crcCheckFrame cfg B = .ok) ∨
      (storedCrc cfg B ≠ crcOf cfg B ∧ crcCheckFrame cfg B = .badCrc (storedCrc cfg B) (crcOf cfg B)) := by
  unfold crcCheckFrame
  by_cases h : storedCrc cfg B = crcOf cfg B
  · exact .inl ⟨h, by simp [h]⟩
  · exact .inr ⟨h, by simp [h]⟩

/-! ## The key register (R110, R111) -/

theorem literalKey_cases (k : KeySize) (lit : List Byte) :
    (1 ≤ lit.length ∧ lit.length ≤ k.bytes ∧ literalKey k lit = .ok (KeyReg.ofLiteral k lit)) ∨
      ((lit.length = 0 ∨ k.bytes < lit.length) ∧ literalKey k lit = .error .argumentError) := by
  unfold literalKey
  by_cases h : lit.length = 0
  · exact .inr ⟨.inl h, by simp [h]⟩
  · by_cases g : k.bytes < lit.length
    · exact .inr ⟨.inr g, by simp [h, g]⟩
    · exact .inl ⟨by omega, by omega, by simp [h, g]⟩

theorem indexKey_cases (cfg : Config) (idx : Byte) :
    (idx.toNat < 2 ∧ indexKey cfg idx = literalKey cfg.keySize (keystoreRecord cfg idx).bytes) ∨
      (2 ≤ idx.toNat ∧ indexKey cfg idx = .error .argumentError) := by
  unfold indexKey
  by_cases h : keystoreSlots ≤ idx.toNat
  · exact .inr ⟨h, by simp [h]⟩
  · exact .inl ⟨by simpa using h, by simp [h]⟩

/-! ## The transmit path (R162) -/

/-- `TX_FRAME` sends exactly one frame, or refuses the message and sends none. -/
theorem transmit_cases (s : State) (src dst proto : Byte) (msg : List Byte) (iv : Iv) :
    (msg.length ≤ cap (layoutInForce s.key) ∧ transmit s src dst proto msg iv = Response.returns .none
        [.send (wireFrame s.cfg s.key (shapeFrame s.cfg (layoutInForce s.key) src dst proto msg iv))]) ∨
      (cap (layoutInForce s.key) < msg.length ∧
        transmit s src dst proto msg iv = Response.raises (.payloadTooLarge msg.length) []) := by
  unfold transmit
  rcases buildFrame_cases s.cfg (layoutInForce s.key) src dst proto msg iv with ⟨h, e⟩ | ⟨h, e⟩
  · exact .inl ⟨h, by rw [e]⟩
  · exact .inr ⟨h, by rw [e]⟩

/-- The bytes on the air agree with the built frame outside the payload region and the trailer. -/
theorem at_wireFrame (cfg : Config) (key : KeyReg) (B : Frame) {i : Nat} (h : i < 32) : (wireFrame cfg key B).at i = B.at i := by
  unfold wireFrame
  split
  · rw [at_encryptFrame cfg _ _ (.inl h), at_crcGenFrame cfg B (by omega)]
  · exact at_crcGenFrame cfg B (by omega)

/-- The packets of a probe and of a response fit under both layouts. -/
theorem pingPacketSize_le_cap (L : Layout) : pingPacketSize ≤ cap L := by cases L <;> decide

@[simp] theorem timePack_length (t : TimeValue) : (timePack t).length = 5 := rfl
@[simp] theorem pingPack_length (o b : TimeValue) (x : Byte) : (pingPack o b x).length = pingPacketSize := rfl

theorem responsePacket_length (s : State) (L : Layout) (B : Frame) : (responsePacket s L B).length = pingPacketSize := by
  rw [responsePacket, overlay_length, pingPacket, memRead_length B (by cases L <;> decide)]

/-! ## The handlers (R153, R155) -/

/-- The Chat handler: malformed; for another node; or rendered. -/
theorem chatRx_cases (cfg : Config) (L : Layout) (B : Frame) :
    (cap L < (fldByte B L .length).toNat ∧ chatRx cfg L B = malformed (fldByte B L .length)) ∨
      ((fldByte B L .length).toNat ≤ cap L ∧ chatClass cfg.nodeAddr (fldByte B L .destination) = none ∧
        chatRx cfg L B = unaddressed) ∨
      (∃ cls, (fldByte B L .length).toNat ≤ cap L ∧ chatClass cfg.nodeAddr (fldByte B L .destination) = some cls ∧
        chatRx cfg L B = Response.returns (.chat cls (fldByte B L .source) (chatText L B (fldByte B L .length).toNat))
          [.chatRender cls (fldByte B L .source) (chatText L B (fldByte B L .length).toNat)]) := by
  unfold chatRx
  by_cases h : cap L < (fldByte B L .length).toNat
  · exact .inl ⟨h, by simp [h]⟩
  · refine .inr ?_
    cases e : chatClass cfg.nodeAddr (fldByte B L .destination) with
    | none => exact .inl ⟨by omega, rfl, by simp [h]⟩
    | some cls => exact .inr ⟨cls, by omega, rfl, by simp [h]⟩

/-- The Ping handler: malformed; for others; answered; or reported. -/
theorem pingRx_cases (s : State) (L : Layout) (B : Frame) (iv : Iv) :
    (((fldByte B L .length).toNat < 11 ∨ cap L < (fldByte B L .length).toNat) ∧
        pingRx s L B iv = malformed (fldByte B L .length)) ∨
      (¬((fldByte B L .length).toNat < 11 ∨ cap L < (fldByte B L .length).toNat) ∧
        ((pingClass s.cfg.nodeAddr (fldByte B L .destination) (fldByte B L .source) (pingOrigin L B) = none ∧
            pingRx s L B iv = unaddressed) ∨
          (pingClass s.cfg.nodeAddr (fldByte B L .destination) (fldByte B L .source) (pingOrigin L B) = some .probeToUs ∧
            pingRx s L B iv = Response.returns (.ping .probeToUs) (pingRespond s L B iv)) ∨
          (pingClass s.cfg.nodeAddr (fldByte B L .destination) (fldByte B L .source) (pingOrigin L B) = some .ownResponse ∧
            pingRx s L B iv = Response.returns (.ping .ownResponse) (pingReport L B)))) := by
  unfold pingRx
  by_cases h : (fldByte B L .length).toNat < 11 ∨ cap L < (fldByte B L .length).toNat
  · exact .inl ⟨h, by simp [pingPacketSize, h]⟩
  · refine .inr ⟨h, ?_⟩
    cases e : pingClass s.cfg.nodeAddr (fldByte B L .destination) (fldByte B L .source) (pingOrigin L B) with
    | none => exact .inl ⟨rfl, by simp [pingPacketSize, h]⟩
    | some c =>
      cases c with
      | probeToUs => exact .inr (.inl ⟨rfl, by simp [pingPacketSize, h]⟩)
      | ownResponse => exact .inr (.inr ⟨rfl, by simp [pingPacketSize, h]⟩)

/-- `ping_respond` cannot fail: it emits exactly one `send` (R174). -/
theorem pingRespond_eq (s : State) (L : Layout) (B : Frame) (iv : Iv) :
    pingRespond s L B iv = [.send (wireFrame s.cfg s.key (shapeFrame s.cfg (layoutInForce s.key) s.cfg.nodeAddr
      (pingOrigin L B) protoPing (responsePacket s L B) iv))] := by
  unfold pingRespond
  rcases transmit_cases s s.cfg.nodeAddr (pingOrigin L B) protoPing (responsePacket s L B) iv with ⟨_, e⟩ | ⟨h, _⟩
  · rw [e]; rfl
  · rw [responsePacket_length] at h
    exact absurd (pingPacketSize_le_cap (layoutInForce s.key)) (Nat.not_le_of_lt h)

/-- The Ping handler under another key: the same response, or the same answer to a probe in other bytes (R113). -/
theorem pingRx_withKey (s : State) (k : KeyReg) (L : Layout) (B : Frame) (iv : Iv) :
    pingRx { s with key := k } L B iv = pingRx s L B iv ∨
      ∃ V W : Frame, pingRx s L B iv = Response.returns (.ping .probeToUs) [.send V] ∧
        pingRx { s with key := k } L B iv = Response.returns (.ping .probeToUs) [.send W] := by
  rcases pingRx_cases s L B iv with ⟨h, e⟩ | ⟨h, ⟨c, e⟩ | ⟨c, e⟩ | ⟨c, e⟩⟩ <;>
    rcases pingRx_cases { s with key := k } L B iv with ⟨h', e'⟩ | ⟨h', ⟨c', e'⟩ | ⟨c', e'⟩ | ⟨c', e'⟩⟩ <;>
    first
      | exact absurd h h'
      | exact absurd h' h
      | (cases c.symm.trans c'; done)
      | (rw [e, e']; exact .inl rfl)
      | (rw [e, e', pingRespond_eq, pingRespond_eq]; exact .inr ⟨_, _, rfl, rfl⟩)

/-! ## The dispatcher and the receive path (R150, R160) -/

/-- The four routes. -/
theorem dispatchFrame_cases (s : State) (L : Layout) (B : Frame) (iv : Iv) :
    (fldByte B L .protocol = 2#8 ∧ dispatchFrame s L B iv = routeChat s L B) ∨
      (fldByte B L .protocol = 3#8 ∧ dispatchFrame s L B iv = routePing s L B iv) ∨
      (fldByte B L .protocol = 1#8 ∧ dispatchFrame s L B iv = routeTime) ∨
      (fldByte B L .protocol ≠ 2#8 ∧ fldByte B L .protocol ≠ 3#8 ∧ fldByte B L .protocol ≠ 1#8 ∧
        dispatchFrame s L B iv = routeDropped) := by
  unfold dispatchFrame
  by_cases h2 : fldByte B L .protocol = 2#8
  · exact .inl ⟨h2, by simp [h2]⟩
  · by_cases h3 : fldByte B L .protocol = 3#8
    · exact .inr (.inl ⟨h3, by simp [h3, protoChat, protoPing]⟩)
    · by_cases h1 : fldByte B L .protocol = 1#8
      · exact .inr (.inr (.inl ⟨h1, by simp [h1, protoChat, protoPing, protoTime]⟩))
      · exact .inr (.inr (.inr ⟨h2, h3, h1, by simp [h1, h2, h3]⟩))

/-- The receive path: `BadMagic`, `BadCrc`, or the dispatcher on the plaintext. -/
theorem receiveFrame_cases (s : State) (W : Frame) (iv : Iv) :
    (memRead W 0 2 ≠ s.cfg.magic.list ∧ receiveFrame s W iv = Response.raises .badMagic []) ∨
      (memRead W 0 2 = s.cfg.magic.list ∧
        storedCrc s.cfg (plainFrame s.cfg s.key W) ≠ crcOf s.cfg (plainFrame s.cfg s.key W) ∧
        receiveFrame s W iv = Response.raises
          (.badCrc (storedCrc s.cfg (plainFrame s.cfg s.key W)) (crcOf s.cfg (plainFrame s.cfg s.key W))) []) ∨
      (memRead W 0 2 = s.cfg.magic.list ∧
        storedCrc s.cfg (plainFrame s.cfg s.key W) = crcOf s.cfg (plainFrame s.cfg s.key W) ∧
        receiveFrame s W iv = dispatchFrame s (layoutInForce s.key) (plainFrame s.cfg s.key W) iv) := by
  unfold receiveFrame
  by_cases h : memRead W 0 2 = s.cfg.magic.list
  · rcases crcCheckFrame_cases s.cfg (plainFrame s.cfg s.key W) with ⟨g, e⟩ | ⟨g, e⟩
    · exact .inr (.inr ⟨h, g, by simp [h, e]⟩)
    · exact .inr (.inl ⟨h, g, by simp [h, e]⟩)
  · exact .inl ⟨h, by simp [h]⟩

/-! ## Serving a request (R50, R204, R232) -/

/-- The step: idle, or the request at the head served. -/
theorem step_cases (s : State) :
    (s.inbox = [] ∧ step s = .next s) ∨
      (∃ r rest, s.inbox = r :: rest ∧ step s = serve r.body (s.taking r rest)) := by
  unfold step stepOnce
  cases h : s.inbox with
  | nil => exact .inl ⟨rfl, rfl⟩
  | cons r rest => exact .inr ⟨r, rest, rfl, rfl⟩

/-- What serving a request can answer, if it answers a next state: an instruction's, that with its status reported, an answer
of the command surface, nothing, the callback registered, or the reset transition. -/
theorem serve_next {b : Body} {s t : State} (h : serve b s = .next t) :
    (∃ i, exec i s = .next t) ∨ (∃ i u, exec i s = .next u ∧ t = u.reported) ∨ t = s.noReply ∨
      t = s.deliver helpResponse ∨ t = s.deliver (dateResponse s) ∨ t = s.deliver surfaceError ∨ t = s.registered ∨
      t = s.powerUp := by
  cases b with
  | word fmt bytes =>
    simp only [serve, serveWord] at h
    split at h
    · exact .inl ⟨_, h⟩
    · cases h
  | receive W iv =>
    simp only [serve, serveReceive] at h
    split at h
    · exact .inl ⟨_, h⟩
    · cases h; simp
  | line text iv =>
    simp only [serve] at h
    cases hc : parseLine s.cfg text iv with
    | nothing => rw [hc] at h; cases h; simp
    | op i =>
      rw [hc] at h
      cases he : exec i s with
      | next u => simp only [runCommand, he, reportOutcome] at h; cases h; exact .inr (.inl ⟨i, u, he, rfl⟩)
      | fault r => simp only [runCommand, he, reportOutcome] at h; cases h
      | refused r => simp only [runCommand, he, reportOutcome] at h; cases h
    | help => rw [hc] at h; cases h; simp
    | date => rw [hc] at h; cases h; simp
    | malformed => rw [hc] at h; cases h; simp
  | registerCallback =>
    simp only [serve, serveRegister] at h
    split at h
    · cases h
    · cases h; simp
  | powerUp => simp only [serve] at h; cases h; simp

end Sys2Proof.Machine
end

