-- ==== Sys2Proof/Laws/PerInstr.lean ====
section
/-! SUPPORT. A law of every instruction as syntax, one lemma per constructor: its word is of its table row's format, and the
opcode byte of the word is in the row (30_encoding.md R83). -/

namespace Sys2Proof.Laws.OpcodeInRow

/-- The word of a well-formed instruction belongs to the instruction's row of the opcode table. -/
def Statement (i : Instr) : Prop :=
  i.WellFormed → (encode i).1 = i.row.format ∧
    rowMatches i.row.pattern i.row.mask (byteAt (encode i).2 (opcodeOffset i.row.format)) = true

/-- The opcode byte of a frame is its `protocol` byte, and well-formedness puts it in the row. -/
theorem of_inClass {L : Layout} {c : ProtoClass} {B : Frame} (iv : Iv) (h : inClass L c B = true) :
    rowMatches c.pattern c.mask (byteAt (encodeProto B iv) L.protocolOffset) = true := by
  rw [byteAt_encodeProto]
  exact h

/-- A five-bit selector is in its own row. -/
theorem of_selector {sel : Byte} (bs : List Byte) (h : sel &&& 0x1F#8 = sel) :
    rowMatches (opRow sel).pattern (opRow sel).mask (byteAt (sel :: bs) (opcodeOffset (opRow sel).format)) = true := by
  simpa [rowMatches, opRow, opcodeOffset, byteAt] using h

theorem protoReservedF (B : Frame) (iv : Iv) : Statement (.protoReservedF B iv) := fun h => ⟨rfl, of_inClass iv h⟩
theorem protoTimeF (B : Frame) (iv : Iv) : Statement (.protoTimeF B iv) := fun h => ⟨rfl, of_inClass iv h⟩
theorem protoChatF (B : Frame) (iv : Iv) : Statement (.protoChatF B iv) := fun h => ⟨rfl, of_inClass iv h⟩
theorem protoPingF (B : Frame) (iv : Iv) : Statement (.protoPingF B iv) := fun h => ⟨rfl, of_inClass iv h⟩
theorem protoUnrecognized04F (B : Frame) (iv : Iv) : Statement (.protoUnrecognized04F B iv) := fun h => ⟨rfl, of_inClass iv h⟩
theorem protoUnrecognized08F (B : Frame) (iv : Iv) : Statement (.protoUnrecognized08F B iv) := fun h => ⟨rfl, of_inClass iv h⟩
theorem protoUnrecognized10F (B : Frame) (iv : Iv) : Statement (.protoUnrecognized10F B iv) := fun h => ⟨rfl, of_inClass iv h⟩
theorem protoUnrecognized20F (B : Frame) (iv : Iv) : Statement (.protoUnrecognized20F B iv) := fun h => ⟨rfl, of_inClass iv h⟩
theorem protoUnrecognized40F (B : Frame) (iv : Iv) : Statement (.protoUnrecognized40F B iv) := fun h => ⟨rfl, of_inClass iv h⟩
theorem protoUnrecognized80F (B : Frame) (iv : Iv) : Statement (.protoUnrecognized80F B iv) := fun h => ⟨rfl, of_inClass iv h⟩
theorem protoReservedS (B : Frame) (iv : Iv) : Statement (.protoReservedS B iv) := fun h => ⟨rfl, of_inClass iv h⟩
theorem protoTimeS (B : Frame) (iv : Iv) : Statement (.protoTimeS B iv) := fun h => ⟨rfl, of_inClass iv h⟩
theorem protoChatS (B : Frame) (iv : Iv) : Statement (.protoChatS B iv) := fun h => ⟨rfl, of_inClass iv h⟩
theorem protoPingS (B : Frame) (iv : Iv) : Statement (.protoPingS B iv) := fun h => ⟨rfl, of_inClass iv h⟩
theorem protoUnrecognized04S (B : Frame) (iv : Iv) : Statement (.protoUnrecognized04S B iv) := fun h => ⟨rfl, of_inClass iv h⟩
theorem protoUnrecognized08S (B : Frame) (iv : Iv) : Statement (.protoUnrecognized08S B iv) := fun h => ⟨rfl, of_inClass iv h⟩
theorem protoUnrecognized10S (B : Frame) (iv : Iv) : Statement (.protoUnrecognized10S B iv) := fun h => ⟨rfl, of_inClass iv h⟩
theorem protoUnrecognized20S (B : Frame) (iv : Iv) : Statement (.protoUnrecognized20S B iv) := fun h => ⟨rfl, of_inClass iv h⟩
theorem protoUnrecognized40S (B : Frame) (iv : Iv) : Statement (.protoUnrecognized40S B iv) := fun h => ⟨rfl, of_inClass iv h⟩
theorem protoUnrecognized80S (B : Frame) (iv : Iv) : Statement (.protoUnrecognized80S B iv) := fun h => ⟨rfl, of_inClass iv h⟩
theorem frameClear : Statement .frameClear := fun _ => ⟨rfl, of_selector _ (by decide)⟩
theorem frameBuild (L : Layout) (src dst proto : Byte) (msg : List Byte) (iv : Iv) : Statement (.frameBuild L src dst proto msg iv) := fun _ => ⟨rfl, of_selector _ (by decide)⟩
theorem frameValidate (L : Layout) (B : Frame) : Statement (.frameValidate L B) := fun _ => ⟨rfl, of_selector _ (by decide)⟩
theorem crcGen (B : Frame) : Statement (.crcGen B) := fun _ => ⟨rfl, of_selector _ (by decide)⟩
theorem crcCheck (B : Frame) : Statement (.crcCheck B) := fun _ => ⟨rfl, of_selector _ (by decide)⟩
theorem keySetLiteral (lit : List Byte) : Statement (.keySetLiteral lit) := fun _ => ⟨rfl, of_selector _ (by decide)⟩
theorem keySetIndex (idx : Byte) : Statement (.keySetIndex idx) := fun _ => ⟨rfl, of_selector _ (by decide)⟩
theorem keyClear : Statement .keyClear := fun _ => ⟨rfl, of_selector _ (by decide)⟩
theorem encrypt (P : Frame) : Statement (.encrypt P) := fun _ => ⟨rfl, of_selector _ (by decide)⟩
theorem decrypt (C : Frame) : Statement (.decrypt C) := fun _ => ⟨rfl, of_selector _ (by decide)⟩
theorem selftest : Statement .selftest := fun _ => ⟨rfl, of_selector _ (by decide)⟩
theorem dispatch (L : Layout) (B : Frame) (iv : Iv) : Statement (.dispatch L B iv) := fun _ => ⟨rfl, of_selector _ (by decide)⟩
theorem chatRx (L : Layout) (B : Frame) : Statement (.chatRx L B) := fun _ => ⟨rfl, of_selector _ (by decide)⟩
theorem pingRx (L : Layout) (B : Frame) (iv : Iv) : Statement (.pingRx L B iv) := fun _ => ⟨rfl, of_selector _ (by decide)⟩
theorem rxFrame (W : Frame) (iv : Iv) : Statement (.rxFrame W iv) := fun _ => ⟨rfl, of_selector _ (by decide)⟩
theorem txFrame (src dst proto : Byte) (msg : List Byte) (iv : Iv) : Statement (.txFrame src dst proto msg iv) := fun _ => ⟨rfl, of_selector _ (by decide)⟩
theorem shout (msg : List Byte) (iv : Iv) : Statement (.shout msg iv) := fun _ => ⟨rfl, of_selector _ (by decide)⟩
theorem tell (msg : List Byte) (dst : Byte) (iv : Iv) : Statement (.tell msg dst iv) := fun _ => ⟨rfl, of_selector _ (by decide)⟩
theorem pingSend (target : Byte) (iv : Iv) : Statement (.pingSend target iv) := fun _ => ⟨rfl, of_selector _ (by decide)⟩

end Sys2Proof.Laws.OpcodeInRow
end

