-- ==== Sys2Proof/Tests/Slice0.lean ====
section
/-! SUPPORT. The model's own tests. Expected values are those of spec/95_test_vectors.md (the table and row in each comment), of
FIPS-197 as 42_aes_block_cipher.md gives them, or written out by hand from the encodings of 30_encoding.md. After them, for every
statement with hypotheses, one named witness that concrete operands meet them, at the boundary values of each clause. -/

namespace Sys2Proof.Tests

/- Each test asks the kernel to evaluate; one after the other they need one thread. -/
set_option Elab.async false

open Sys2Proof.Machine

/-! ## The vector configuration (00_scope.md R17) -/

/-- A frame with `head` at its start, `tail` in its trailer and zeros between. -/
def mkFrame (head tail : List Byte) : Frame := memWrite (memWrite emptyFrame 0 head) 208 tail
/-- A frame with its byte `i` replaced. -/
def patch (B : Frame) (i : Nat) (b : Byte) : Frame := memWrite B i [b]
/-- The bytes `a, a+1, …`, sixteen of them. -/
def ivFrom (a : Byte) : Iv := ⟨(List.range 16).map fun i => a + BitVec.ofNat 8 i, by simp [ivtSize]⟩
def iv0 : Iv := ivFrom 0x00
def iv1 : Iv := ivFrom 0x10
def hello : List Byte := [0x68, 0x65, 0x6C, 0x6C, 0x6F]
/-- `m200[i] = (7 * i + 1) mod 256`, the first `n` bytes of it (T-BUILD). -/
def ramp (n : Nat) : List Byte := (List.range n).map fun i => BitVec.ofNat 8 (7 * i + 1)
def keyText : List Byte := [0x6B, 0x65, 0x79]
/-- `/setkey`, `/clearkey` and `/testenc` (92 D33). -/
def setkeyWord : List Byte := [0x2F, 0x73, 0x65, 0x74, 0x6B, 0x65, 0x79]
def clearkeyWord : List Byte := [0x2F, 0x63, 0x6C, 0x65, 0x61, 0x72, 0x6B, 0x65, 0x79]
def testencWord : List Byte := [0x2F, 0x74, 0x65, 0x73, 0x74, 0x65, 0x6E, 0x63]
/-- The vector configuration at address `a`. -/
def vectorConfig (a : Byte) : Config :=
  { magic := ⟨[0x4C, 0x4E], rfl⟩, crc := .isoHdlc, crcOrder := .little, keySize := .aes256, nodeAddr := a,
    keystore0 := .ofBytes [0x01, 0x02], keystore1 := .ofBytes keyText, keyWord := setkeyWord,
    keyClearWord := clearkeyWord, selftestWord := testencWord }
def noKey : KeyReg := KeyReg.absent .aes256
def theKey : KeyReg := ⟨true, keyText ++ zeros 29, 256⟩
/-- A node at address `a` with key register `k` whose clock answers `t`. -/
def node (a : Byte) (k : KeyReg) (t : TimeValue) : State := ⟨.dispatchIdle, k, true, vectorConfig a, t, [], none, []⟩
def t0 : TimeValue := ⟨0, 0⟩
def t128 : TimeValue := ⟨100, 0x80⟩
def t192 : TimeValue := ⟨100, 0xC0⟩
/-- The node with one request waiting. -/
def asking (s : State) (b : Body) : State := { s with inbox := [⟨b, s.now⟩] }
/-- The state after an outcome that goes on. -/
def goesTo : Host.Outcome State Fault Refusal → Option State
  | .next t => some t
  | _ => none
/-- What the last request returned. -/
def replyOf (o : Host.Outcome State Fault Refusal) : Option Response := (goesTo o).bind State.resp
/-- The key register afterwards. -/
def keyAfter (o : Host.Outcome State Fault Refusal) : Option KeyReg := (goesTo o).map State.key
/-- Bytes of the frame the last request returned. -/
def replyBytes (o : Host.Outcome State Fault Refusal) (i n : Nat) : Option (List Byte) :=
  (replyOf o).bind fun r => match r.value with
    | .frame B => some (memRead B i n)
    | _ => none
/-- The reason a step was refused. -/
def refusalOf : Host.Outcome State Fault Refusal → Option Refusal
  | .refused r => some r
  | _ => none
/-- An `OK` response. -/
def good (v : Value) (evs : List Event) : Option Response := some (okay v evs)
/-- A response with another status. -/
def bad (st : Status) (evs : List Event) : Option Response := some (failed st evs)
/-- A response with its route. -/
def via (rt : Route) (r : Option Response) : Option Response := r.map (Response.routed rt)

/-- V10 (T-2.1). -/
def v10 : Frame := mkFrame [
  0x4C, 0x4E, 0x0A, 0xFF, 0x02, 0x05, 0x00, 0x00, 0x68, 0x65, 0x6C, 0x6C, 0x6F] [0xD2, 0x37, 0x25, 0x80]
/-- V11 (T-2.1). -/
def v11 : Frame := mkFrame [
  0x4C, 0x4E, 0x0B, 0x0A, 0x02, 0x05, 0x00, 0x00, 0x68, 0x65, 0x6C, 0x6C, 0x6F] [0xD6, 0x29, 0x81, 0x7E]
/-- V12 (T-2.1). -/
def v12 : Frame := mkFrame [
  0x4C, 0x4E, 0x0A, 0x0B, 0x00, 0x01, 0x02, 0x03, 0x04, 0x05, 0x06, 0x07, 0x08, 0x09, 0x0A, 0x0B,
  0x0C, 0x0D, 0x0E, 0x0F, 0x02, 0x05, 0x00, 0x00, 0x00, 0x00, 0x00, 0x00, 0x00, 0x00, 0x00, 0x00,
  0xA3, 0x7E, 0x7B, 0xE0, 0x9C, 0xD0, 0x6D, 0x44, 0x46, 0x2B, 0xD2, 0x7A, 0x32, 0x58, 0x49, 0xE8,
  0x46, 0xF4, 0xFD, 0xDF, 0x2A, 0xAD, 0xAC, 0x01, 0xDD, 0xBF, 0x01, 0x70, 0xF1, 0xCE, 0xFB, 0xA8,
  0xA3, 0xB0, 0x75, 0x07, 0x97, 0x17, 0x52, 0xFF, 0x71, 0xAE, 0x0B, 0xE5, 0x43, 0x02, 0x24, 0x11,
  0xC9, 0x7F, 0xCA, 0xBF, 0xC8, 0xF7, 0x7F, 0x3B, 0x4C, 0x3E, 0xD6, 0xB5, 0x4F, 0x61, 0xE8, 0x73,
  0xBC, 0x17, 0x25, 0xDB, 0x1F, 0xB7, 0xFD, 0x28, 0x78, 0x37, 0x02, 0xE6, 0x02, 0x8C, 0xCF, 0xE8,
  0x17, 0xAF, 0x54, 0x75, 0x50, 0xC3, 0x9A, 0xCC, 0xA2, 0x82, 0x65, 0x98, 0x7D, 0x12, 0xFD, 0x52,
  0x71, 0x4E, 0xAF, 0xB3, 0x97, 0x22, 0xCE, 0xB0, 0xCC, 0x34, 0x36, 0x23, 0x3E, 0xAF, 0xC0, 0x59,
  0x29, 0x59, 0x82, 0x4C, 0x08, 0xC0, 0x4B, 0x02, 0x48, 0x9D, 0x71, 0x81, 0xBC, 0xFA, 0x45, 0xC6,
  0xC0, 0x73, 0xBF, 0x05, 0xFF, 0xD6, 0xAD, 0x83, 0x23, 0x25, 0x05, 0x4C, 0xD7, 0xA3, 0x39, 0x68,
  0xEA, 0x7E, 0x2C, 0xF8, 0x63, 0x3C, 0x17, 0x38, 0x1C, 0x77, 0x02, 0x53, 0x5B, 0x70, 0x92, 0x5C,
  0x0F, 0x46, 0x8D, 0x88, 0xDF, 0x86, 0xAA, 0xB5, 0x05, 0xE9, 0x85, 0x54, 0x44, 0xC7, 0x45, 0xC5] [0x84, 0x45, 0x27, 0x87]
/-- V13 (T-2.1). -/
def v13 : Frame := mkFrame [
  0x4C, 0x4E, 0x0A, 0x0B, 0x00, 0x01, 0x02, 0x03, 0x04, 0x05, 0x06, 0x07, 0x08, 0x09, 0x0A, 0x0B,
  0x0C, 0x0D, 0x0E, 0x0F, 0x02, 0x05, 0x00, 0x00, 0x00, 0x00, 0x00, 0x00, 0x00, 0x00, 0x00, 0x00,
  0x68, 0x65, 0x6C, 0x6C, 0x6F] [0x84, 0x45, 0x27, 0x87]
/-- V20 (T-2.1). -/
def v20 : Frame := mkFrame [
  0x4C, 0x4E, 0x0B, 0x0A, 0x03, 0x0B, 0x00, 0x00, 0x64, 0x00, 0x00, 0x00, 0x80, 0x00, 0x00, 0x00,
  0x00, 0x00, 0x0B] [0x4C, 0xEE, 0xAA, 0x12]
/-- V21 (T-2.1). -/
def v21 : Frame := mkFrame [
  0x4C, 0x4E, 0x0A, 0x0B, 0x03, 0x0B, 0x00, 0x00, 0x64, 0x00, 0x00, 0x00, 0x80, 0x64, 0x00, 0x00,
  0x00, 0xC0, 0x0B] [0xC0, 0xC7, 0xB8, 0x42]

/-! ## Well-formedness: a term of every `PROTO` row that its check refuses (R70, R83) -/

theorem test_wf_refuses_protoReservedF : (Instr.protoReservedF (patch emptyFrame 4 0x01) iv0).wf = false := by decide +kernel
theorem test_wf_refuses_protoTimeF : (Instr.protoTimeF (patch emptyFrame 4 0x00) iv0).wf = false := by decide +kernel
theorem test_wf_refuses_protoChatF : (Instr.protoChatF (patch emptyFrame 4 0x03) iv0).wf = false := by decide +kernel
theorem test_wf_refuses_protoPingF : (Instr.protoPingF (patch emptyFrame 4 0x02) iv0).wf = false := by decide +kernel
theorem test_wf_refuses_protoUnrecognized04F : (Instr.protoUnrecognized04F (patch emptyFrame 4 0x08) iv0).wf = false := by decide +kernel
theorem test_wf_refuses_protoUnrecognized08F : (Instr.protoUnrecognized08F (patch emptyFrame 4 0x07) iv0).wf = false := by decide +kernel
theorem test_wf_refuses_protoUnrecognized10F : (Instr.protoUnrecognized10F (patch emptyFrame 4 0x20) iv0).wf = false := by decide +kernel
theorem test_wf_refuses_protoUnrecognized20F : (Instr.protoUnrecognized20F (patch emptyFrame 4 0x1F) iv0).wf = false := by decide +kernel
theorem test_wf_refuses_protoUnrecognized40F : (Instr.protoUnrecognized40F (patch emptyFrame 4 0x80) iv0).wf = false := by decide +kernel
theorem test_wf_refuses_protoUnrecognized80F : (Instr.protoUnrecognized80F (patch emptyFrame 4 0x7F) iv0).wf = false := by decide +kernel
theorem test_wf_refuses_protoReservedS : (Instr.protoReservedS (patch emptyFrame 20 0x01) iv0).wf = false := by decide +kernel
theorem test_wf_refuses_protoTimeS : (Instr.protoTimeS (patch emptyFrame 20 0x00) iv0).wf = false := by decide +kernel
theorem test_wf_refuses_protoChatS : (Instr.protoChatS (patch emptyFrame 20 0x03) iv0).wf = false := by decide +kernel
theorem test_wf_refuses_protoPingS : (Instr.protoPingS (patch emptyFrame 20 0x02) iv0).wf = false := by decide +kernel
theorem test_wf_refuses_protoUnrecognized04S : (Instr.protoUnrecognized04S (patch emptyFrame 20 0x08) iv0).wf = false := by decide +kernel
theorem test_wf_refuses_protoUnrecognized08S : (Instr.protoUnrecognized08S (patch emptyFrame 20 0x07) iv0).wf = false := by decide +kernel
theorem test_wf_refuses_protoUnrecognized10S : (Instr.protoUnrecognized10S (patch emptyFrame 20 0x20) iv0).wf = false := by decide +kernel
theorem test_wf_refuses_protoUnrecognized20S : (Instr.protoUnrecognized20S (patch emptyFrame 20 0x1F) iv0).wf = false := by decide +kernel
theorem test_wf_refuses_protoUnrecognized40S : (Instr.protoUnrecognized40S (patch emptyFrame 20 0x80) iv0).wf = false := by decide +kernel
theorem test_wf_refuses_protoUnrecognized80S : (Instr.protoUnrecognized80S (patch emptyFrame 20 0x7F) iv0).wf = false := by decide +kernel

/-- Every operation's operands are right by their types. -/
theorem test_wf_accepts_operation : (Instr.dispatch .S v13 iv0).wf = true := by decide

/-! ## Decoding: every constructor from a word written out from the table (R70, R80, R81, R83) -/

/-- The 16 bytes `A0 A1 .. AF` as an operand. -/
def ivWord : List Byte := [0xA0, 0xA1, 0xA2, 0xA3, 0xA4, 0xA5, 0xA6, 0xA7, 0xA8, 0xA9, 0xAA, 0xAB, 0xAC, 0xAD, 0xAE, 0xAF]
def ivA : Iv := ⟨ivWord, rfl⟩
/-- A 212-byte frame as an operand: `head`, then bytes of `EE`. -/
def frameWord (head : List Byte) : List Byte := head ++ List.replicate (212 - head.length) 0xEE
/-- The same as a frame. -/
def frameE (head : List Byte) : Frame := memWrite ⟨List.replicate frameSize 0xEE, List.length_replicate⟩ 0 head
/-- The first 21 bytes of a frame whose byte 20 is `p`. -/
def headS (p : Byte) : List Byte :=
  [0x4C, 0x4E, 0x0A, 0x0B, 0x00, 0x11, 0x22, 0x33, 0x44, 0x55, 0x66, 0x77, 0x88, 0x99, 0xAA, 0xBB, 0xCC, 0xDD, 0xEE, 0xFF, p]
/-- The frame of the operation words: bytes `4C 4E 0A FF 02 05`, then `EE`. -/
def frameW : List Byte := frameWord [0x4C, 0x4E, 0x0A, 0xFF, 0x02, 0x05]
def frameX : Frame := frameE [0x4C, 0x4E, 0x0A, 0xFF, 0x02, 0x05]

theorem test_decode_protoReservedF : decode .protoF (frameWord [0x4C, 0x4E, 0x0A, 0x0B, 0x00] ++ ivWord) =
    .ok (.protoReservedF (frameE [0x4C, 0x4E, 0x0A, 0x0B, 0x00]) ivA) := by decide +kernel
theorem test_decode_protoTimeF : decode .protoF (frameWord [0x4C, 0x4E, 0x0A, 0x0B, 0x01] ++ ivWord) =
    .ok (.protoTimeF (frameE [0x4C, 0x4E, 0x0A, 0x0B, 0x01]) ivA) := by decide +kernel
theorem test_decode_protoChatF : decode .protoF (frameWord [0x4C, 0x4E, 0x0A, 0x0B, 0x02] ++ ivWord) =
    .ok (.protoChatF (frameE [0x4C, 0x4E, 0x0A, 0x0B, 0x02]) ivA) := by decide +kernel
theorem test_decode_protoPingF : decode .protoF (frameWord [0x4C, 0x4E, 0x0A, 0x0B, 0x03] ++ ivWord) =
    .ok (.protoPingF (frameE [0x4C, 0x4E, 0x0A, 0x0B, 0x03]) ivA) := by decide +kernel
theorem test_decode_protoUnrecognized04F : decode .protoF (frameWord [0x4C, 0x4E, 0x0A, 0x0B, 0x06] ++ ivWord) =
    .ok (.protoUnrecognized04F (frameE [0x4C, 0x4E, 0x0A, 0x0B, 0x06]) ivA) := by decide +kernel
theorem test_decode_protoUnrecognized08F : decode .protoF (frameWord [0x4C, 0x4E, 0x0A, 0x0B, 0x0D] ++ ivWord) =
    .ok (.protoUnrecognized08F (frameE [0x4C, 0x4E, 0x0A, 0x0B, 0x0D]) ivA) := by decide +kernel
theorem test_decode_protoUnrecognized10F : decode .protoF (frameWord [0x4C, 0x4E, 0x0A, 0x0B, 0x1A] ++ ivWord) =
    .ok (.protoUnrecognized10F (frameE [0x4C, 0x4E, 0x0A, 0x0B, 0x1A]) ivA) := by decide +kernel
theorem test_decode_protoUnrecognized20F : decode .protoF (frameWord [0x4C, 0x4E, 0x0A, 0x0B, 0x35] ++ ivWord) =
    .ok (.protoUnrecognized20F (frameE [0x4C, 0x4E, 0x0A, 0x0B, 0x35]) ivA) := by decide +kernel
theorem test_decode_protoUnrecognized40F : decode .protoF (frameWord [0x4C, 0x4E, 0x0A, 0x0B, 0x6A] ++ ivWord) =
    .ok (.protoUnrecognized40F (frameE [0x4C, 0x4E, 0x0A, 0x0B, 0x6A]) ivA) := by decide +kernel
theorem test_decode_protoUnrecognized80F : decode .protoF (frameWord [0x4C, 0x4E, 0x0A, 0x0B, 0xD5] ++ ivWord) =
    .ok (.protoUnrecognized80F (frameE [0x4C, 0x4E, 0x0A, 0x0B, 0xD5]) ivA) := by decide +kernel
theorem test_decode_protoReservedS : decode .protoS (frameWord (headS 0x00) ++ ivWord) =
    .ok (.protoReservedS (frameE (headS 0x00)) ivA) := by decide +kernel
theorem test_decode_protoTimeS : decode .protoS (frameWord (headS 0x01) ++ ivWord) =
    .ok (.protoTimeS (frameE (headS 0x01)) ivA) := by decide +kernel
theorem test_decode_protoChatS : decode .protoS (frameWord (headS 0x02) ++ ivWord) =
    .ok (.protoChatS (frameE (headS 0x02)) ivA) := by decide +kernel
theorem test_decode_protoPingS : decode .protoS (frameWord (headS 0x03) ++ ivWord) =
    .ok (.protoPingS (frameE (headS 0x03)) ivA) := by decide +kernel
theorem test_decode_protoUnrecognized04S : decode .protoS (frameWord (headS 0x06) ++ ivWord) =
    .ok (.protoUnrecognized04S (frameE (headS 0x06)) ivA) := by decide +kernel
theorem test_decode_protoUnrecognized08S : decode .protoS (frameWord (headS 0x0D) ++ ivWord) =
    .ok (.protoUnrecognized08S (frameE (headS 0x0D)) ivA) := by decide +kernel
theorem test_decode_protoUnrecognized10S : decode .protoS (frameWord (headS 0x1A) ++ ivWord) =
    .ok (.protoUnrecognized10S (frameE (headS 0x1A)) ivA) := by decide +kernel
theorem test_decode_protoUnrecognized20S : decode .protoS (frameWord (headS 0x35) ++ ivWord) =
    .ok (.protoUnrecognized20S (frameE (headS 0x35)) ivA) := by decide +kernel
theorem test_decode_protoUnrecognized40S : decode .protoS (frameWord (headS 0x6A) ++ ivWord) =
    .ok (.protoUnrecognized40S (frameE (headS 0x6A)) ivA) := by decide +kernel
theorem test_decode_protoUnrecognized80S : decode .protoS (frameWord (headS 0xD5) ++ ivWord) =
    .ok (.protoUnrecognized80S (frameE (headS 0xD5)) ivA) := by decide +kernel
theorem test_decode_frameClear : decode .op [0x00] = .ok (.frameClear) := by decide +kernel
theorem test_decode_frameBuild : decode .op ([0x01, 0x01, 0x0A, 0x0B, 0x02, 0x68, 0x69] ++ ivWord) = .ok (.frameBuild .S 0x0A 0x0B 0x02 [0x68, 0x69] ivA) := by decide +kernel
theorem test_decode_frameValidate : decode .op ([0x02, 0x00] ++ frameW) = .ok (.frameValidate .F frameX) := by decide +kernel
theorem test_decode_crcGen : decode .op ([0x03] ++ frameW) = .ok (.crcGen frameX) := by decide +kernel
theorem test_decode_crcCheck : decode .op ([0x04] ++ frameW) = .ok (.crcCheck frameX) := by decide +kernel
theorem test_decode_keySetLiteral : decode .op [0x05, 0x6B, 0x65, 0x79] = .ok (.keySetLiteral [0x6B, 0x65, 0x79]) := by decide +kernel
theorem test_decode_keySetIndex : decode .op [0x06, 0x02] = .ok (.keySetIndex 0x02) := by decide +kernel
theorem test_decode_keyClear : decode .op [0x07] = .ok (.keyClear) := by decide +kernel
theorem test_decode_encrypt : decode .op ([0x08] ++ frameW) = .ok (.encrypt frameX) := by decide +kernel
theorem test_decode_decrypt : decode .op ([0x09] ++ frameW) = .ok (.decrypt frameX) := by decide +kernel
theorem test_decode_selftest : decode .op [0x0A] = .ok (.selftest) := by decide +kernel
theorem test_decode_dispatch : decode .op ([0x0B, 0x01] ++ frameW ++ ivWord) = .ok (.dispatch .S frameX ivA) := by decide +kernel
theorem test_decode_chatRx : decode .op ([0x0C, 0x00] ++ frameW) = .ok (.chatRx .F frameX) := by decide +kernel
theorem test_decode_pingRx : decode .op ([0x0D, 0x01] ++ frameW ++ ivWord) = .ok (.pingRx .S frameX ivA) := by decide +kernel
theorem test_decode_rxFrame : decode .op ([0x0E] ++ frameW ++ ivWord) = .ok (.rxFrame frameX ivA) := by decide +kernel
theorem test_decode_txFrame : decode .op ([0x0F, 0x0A, 0x0B, 0x02, 0x68, 0x69] ++ ivWord) = .ok (.txFrame 0x0A 0x0B 0x02 [0x68, 0x69] ivA) := by decide +kernel
theorem test_decode_shout : decode .op ([0x10, 0x68, 0x69] ++ ivWord) = .ok (.shout [0x68, 0x69] ivA) := by decide +kernel
theorem test_decode_tell : decode .op ([0x11, 0x68, 0x69, 0x0B] ++ ivWord) = .ok (.tell [0x68, 0x69] 0x0B ivA) := by decide +kernel
theorem test_decode_pingSend : decode .op ([0x12, 0x0A] ++ ivWord) = .ok (.pingSend 0x0A ivA) := by decide +kernel

/-- The unassigned selectors 0x13 and 0x1F, and a selector byte that is no selector (R82; log entry 3). -/
theorem test_decode_refuses_selectors : decode .op [0x13] = .error (.unassignedSelector 0x13) ∧
    decode .op [0x1F, 0x00] = .error (.unassignedSelector 0x1F) ∧ decode .op [0x20] = .error (.unassignedSelector 0x20) ∧
    decode .op [] = .error .noSelector := by decide
/-- Operands of another size are ruled out (R81, 93 U16). -/
theorem test_decode_refuses_sizes : decode .op [0x06] = .error (.operandShape 0x06) ∧
    decode .op [0x00, 0x00] = .error (.operandShape 0x00) ∧ decode .op ([0x08] ++ frameW ++ [0x00]) = .error (.operandShape 0x08) ∧
    decode .op ([0x02, 0x02] ++ frameW) = .error (.operandShape 0x02) ∧ decode .protoF frameW = .error .frameShape := by
  decide +kernel
/-- No two rows of a format overlap, and the `PROTO` rows cover every byte (R83). -/
theorem test_rows_disjoint : ∀ p : Byte, (protoClasses.filter fun c => rowMatches c.pattern c.mask p).length = 1 := by
  decide +kernel
/-- A bare table word of an assigned selector is that operation; any other is the `protocol` byte of a plain frame (log entry 4). -/
theorem test_table_word : decodeTableWord 8 0x07 = some .keyClear ∧ decodeTableWord 8 0x0A = some .selftest ∧
    decodeTableWord 8 0x2A = some (.protoUnrecognized20F (patch emptyFrame 4 0x2A) ⟨zeros 16, rfl⟩) := by decide +kernel
/-- Every table word runs as the first instruction after reset. -/
theorem test_table_words_run : ∀ b : Byte, (goesTo (step (State.reset.withFetchWord 8 b.toNat))).isSome = true := by
  decide +kernel

/-! ## The CRC and the Frame Codec -/

/-- T-CRC rows 2, 3 and 4. -/
theorem test_crc_values : (crc .isoHdlc []).toNat = 0 ∧ (crc .isoHdlc [0x00]).toNat = 0xD202EF8D ∧
    (crc .isoHdlc [0x61]).toNat = 0xE8B7BE43 := by decide +kernel
/-- T-CRC rows 14 to 16: CRC-4/G-704, CRC-4/INTERLAKEN and CRC-24/OPENPGP of `123456789`. -/
theorem test_crc_widths :
    (crc ⟨4, 3, 0, true, true, 0, by decide, by decide⟩ [0x31, 0x32, 0x33, 0x34, 0x35, 0x36, 0x37, 0x38, 0x39]).toNat = 0x7 ∧
    (crc ⟨4, 3, 15, false, false, 15, by decide, by decide⟩ [0x31, 0x32, 0x33, 0x34, 0x35, 0x36, 0x37, 0x38, 0x39]).toNat = 0xB ∧
    (crc ⟨24, 0x864CFB, 0xB704CE, false, false, 0, by decide, by decide⟩
      [0x31, 0x32, 0x33, 0x34, 0x35, 0x36, 0x37, 0x38, 0x39]).toNat = 0x21CF02 := by decide +kernel
/-- T-BUILD row 1. -/
theorem test_frameClear : replyOf (exec .frameClear (node 0x0A noKey t0)) = good (.frame ⟨zeros 212, rfl⟩) [] := by
  decide +kernel
/-- T-BUILD rows 2 and 8. -/
theorem test_frameBuild :
    replyOf (exec (.frameBuild .F 0x0A 0xFF 2 hello iv0) (node 0x0A noKey t0)) =
      good (.frame (memWrite v10 208 (zeros 4))) [] ∧
    replyOf (exec (.frameBuild .S 0x0A 0x0B 2 hello iv0) (node 0x0A noKey t0)) =
      good (.frame (memWrite v13 208 (zeros 4))) [] := by decide +kernel
/-- T-BUILD rows 5 and 7. -/
theorem test_frameBuild_refuses :
    replyOf (exec (.frameBuild .F 0x0A 0xFF 2 (ramp 201) iv0) (node 0x0A noKey t0)) = bad (.payloadTooLarge 201) [] ∧
    replyOf (exec (.frameBuild .S 0x0A 0xFF 2 (ramp 177) iv0) (node 0x0A noKey t0)) = bad (.payloadTooLarge 177) [] := by
  decide +kernel
/-- T-BUILD row 10. -/
theorem test_frameValidate_F :
    replyOf (exec (.frameValidate .F (patch emptyFrame 5 0xC8)) (node 0x0A noKey t0)) = good .none [] ∧
    replyOf (exec (.frameValidate .F (patch emptyFrame 5 0xC9)) (node 0x0A noKey t0)) = bad (.payloadTooLarge 201) [] := by
  decide +kernel
/-- T-BUILD row 11. -/
theorem test_frameValidate_S :
    replyOf (exec (.frameValidate .S (patch emptyFrame 21 0xB0)) (node 0x0A noKey t0)) = good .none [] ∧
    replyOf (exec (.frameValidate .S (patch emptyFrame 21 0xB1)) (node 0x0A noKey t0)) = bad (.payloadTooLarge 177) [] := by
  decide +kernel
/-- T-CRC row 6: the trailer in both byte orders. -/
theorem test_crcGen : replyOf (exec (.crcGen (memWrite v10 208 (zeros 4))) (node 0x0A noKey t0)) = good (.frame v10) [] ∧
    memRead (crcGenFrame { vectorConfig 0x0A with crcOrder := .big } v10) 208 4 = [0x80, 0x25, 0x37, 0xD2] := by decide +kernel
/-- T-CRC rows 7 and 9. -/
theorem test_crcCheck : replyOf (exec (.crcCheck v10) (node 0x0A noKey t0)) = good .none [] ∧
    replyOf (exec (.crcCheck (patch v10 207 0x01)) (node 0x0A noKey t0)) = bad (.badCrc 0x802537D2 0xF7220744) [] := by
  decide +kernel
/-- T-CRC row 11. -/
theorem test_crcCheck_trailer :
    replyOf (exec (.crcCheck (patch v10 208 0xD3)) (node 0x0A noKey t0)) = bad (.badCrc 0x802537D3 0x802537D2) [] := by
  decide +kernel

/-! ## The key register and the cipher -/

/-- T-KEY row 1. -/
theorem test_keySetLiteral : keyAfter (exec (.keySetLiteral keyText) (node 0x0A noKey t0)) = some theKey := by decide +kernel
/-- T-KEY row 3. -/
theorem test_keySetLiteral_refuses :
    replyOf (exec (.keySetLiteral (zeros 33)) (node 0x0A theKey t0)) = bad .argumentError [] ∧
    keyAfter (exec (.keySetLiteral (zeros 33)) (node 0x0A theKey t0)) = some theKey := by decide +kernel
/-- T-KEY rows 7 and 8. -/
theorem test_keySetIndex : keyAfter (exec (.keySetIndex 1) (node 0x0A noKey t0)) = some theKey ∧
    keyAfter (exec (.keySetIndex 0) (node 0x0A theKey t0)) = some ⟨true, [0x01, 0x02] ++ zeros 30, 256⟩ := by decide +kernel
/-- T-KEY row 9. -/
theorem test_keySetIndex_refuses : replyOf (exec (.keySetIndex 2) (node 0x0A theKey t0)) = bad .argumentError [] ∧
    keyAfter (exec (.keySetIndex 2) (node 0x0A theKey t0)) = some theKey := by decide +kernel
/-- T-KEY row 10. -/
theorem test_keyClear : keyAfter (exec .keyClear (node 0x0A theKey t0)) = some ⟨false, zeros 32, 0⟩ := by decide +kernel
/-- FIPS-197: the ciphers of 128, 192 and 256 bits on 00112233..EEFF under 000102.. (R137). -/
theorem test_aes_fips :
    (aesEnc .aes128 ((List.range 16).map (BitVec.ofNat 8)) (Block.ofBytes ((List.range 16).map fun i => BitVec.ofNat 8 (17 * i)))).bytes =
      [0x69, 0xC4, 0xE0, 0xD8, 0x6A, 0x7B, 0x04, 0x30, 0xD8, 0xCD, 0xB7, 0x80, 0x70, 0xB4, 0xC5, 0x5A] ∧
    (aesEnc .aes192 ((List.range 24).map (BitVec.ofNat 8)) (Block.ofBytes ((List.range 16).map fun i => BitVec.ofNat 8 (17 * i)))).bytes =
      [0xDD, 0xA9, 0x7C, 0xA4, 0x86, 0x4C, 0xDF, 0xE0, 0x6E, 0xAF, 0x70, 0xA0, 0xEC, 0x0D, 0x71, 0x91] ∧
    (aesEnc .aes256 ((List.range 32).map (BitVec.ofNat 8)) (Block.ofBytes ((List.range 16).map fun i => BitVec.ofNat 8 (17 * i)))).bytes =
      [0x8E, 0xA2, 0xB7, 0xCA, 0x51, 0x67, 0x45, 0xBF, 0xEA, 0xFC, 0x49, 0x90, 0x4B, 0x49, 0x60, 0x89] := by decide +kernel
/-- T-ENC row 3: the first two blocks of V12 from V13, and the bytes before and after the payload region. -/
theorem test_encrypt : (replyBytes (exec (.encrypt v13) (node 0x0A theKey t0)) 0 64).map (List.drop 32) =
      some (memRead v12 32 32) ∧
    (replyBytes (exec (.encrypt v13) (node 0x0A theKey t0)) 0 32) = some (memRead v13 0 32) ∧
    (replyBytes (exec (.encrypt v13) (node 0x0A theKey t0)) 208 4) = some (memRead v13 208 4) := by decide +kernel
/-- T-ENC row 1. -/
theorem test_encrypt_noKey : replyOf (exec (.encrypt v13) (node 0x0A noKey t0)) = bad .noKey [] := by decide +kernel
/-- T-ENC row 4: the first block of V13 from V12. -/
theorem test_decrypt : replyBytes (exec (.decrypt v12) (node 0x0A theKey t0)) 0 48 = some (memRead v13 0 48) := by
  decide +kernel
/-- T-ENC row 6: one ciphertext bit flipped. -/
theorem test_decrypt_flipped :
    memRead (decryptFrame (vectorConfig 0x0A) theKey.bytes (patch v12 32 0xA2)) 32 17 =
      [0xAB, 0x58, 0xE4, 0xD1, 0xC1, 0xCA, 0xC3, 0x56, 0x4A, 0x4B, 0x4A, 0x41, 0x65, 0x50, 0x14, 0x85, 0x01] := by
  decide +kernel
/-- T-ST row 1, and row 3's plaintext trailer. -/
theorem test_selftest_noKey : replyOf (exec .selftest (node 0x0A noKey t0)) = bad .noKey [] ∧
    memRead (selftestFrame (vectorConfig 0x0B)) 208 4 = [0x6F, 0x05, 0x12, 0xCC] := by decide +kernel

/-! ## The dispatcher and the handlers -/

/-- The response to `hello` from 0x0A. -/
def heard (c : ChatClass) (text : List Byte) : Option Response := good (.chat c 0x0A text) [.chatRender c 0x0A text]
def dropped : Option Response := via .dropped (bad .unknownProtocol [])
def badLength (n : Byte) : Option Response := bad (.malformedFrame n) [.diagnostic .malformedFrame]
/-- A frame with its CRC, under layout F. -/
def plain (src dst proto : Byte) (msg : List Byte) : Frame :=
  crcGenFrame (vectorConfig 0) (shapeFrame (vectorConfig 0) .F src dst proto msg iv0)

/-- T-DISP row 2, and layout S. -/
theorem test_dispatch : replyOf (exec (.dispatch .F (patch v10 4 0x01) iv0) (node 0x0B noKey t0)) =
      via .timeExternal (good .none []) ∧
    replyOf (exec (.dispatch .S v13 iv1) (node 0x0B noKey t0)) = via .chat (heard .direct hello) := by decide +kernel
/-- T-DISP rows 4 and 7. -/
theorem test_dispatch_drops :
    replyOf (exec (.dispatch .F (patch v10 4 0x03) iv0) (node 0x0B noKey t0)) = via .ping (badLength 5) ∧
    replyOf (exec (.dispatch .F (patch v10 4 0x2A) iv0) (node 0x0B noKey t0)) = dropped := by decide +kernel
/-- T-CHAT rows 4 and 10: the text stops at the first 00; the node's own address is tested first. -/
theorem test_chatRx :
    replyOf (exec (.chatRx .F (plain 0x0A 0x0B 2 [0x68, 0x69, 0x00, 0x78])) (node 0x0B noKey t0)) =
      heard .direct [0x68, 0x69] ∧
    replyOf (exec (.chatRx .F v10) (node 0xFF noKey t0)) = heard .direct hello := by decide +kernel
/-- T-CHAT rows 3 and 8: another node's frame; a malformed one for another node. -/
theorem test_chatRx_refuses :
    replyOf (exec (.chatRx .F (plain 0x0A 0x0C 2 hello)) (node 0x0B noKey t0)) = bad .unaddressedFrame [] ∧
    replyOf (exec (.chatRx .F (patch (plain 0x0A 0x0C 2 hello) 5 0xC9)) (node 0x0B noKey t0)) = badLength 0xC9 := by
  decide +kernel
/-- T-PING rows 1 and 3. -/
theorem test_pingRx :
    replyOf (exec (.pingRx .F v20 iv0) (node 0x0A noKey t192)) = good (.ping .probeToUs) [.send v21] ∧
    replyOf (exec (.pingRx .F v21 iv0) (node 0x0B noKey t0)) = good (.ping .ownResponse) [.pingReport 250] := by decide +kernel
/-- T-PING rows 5 and 8. -/
theorem test_pingRx_edges :
    replyOf (exec (.pingRx .F (plain 0x0A 0x0B 3 [0x64, 0x00, 0x00, 0x00, 0x80, 0x00, 0x00, 0x00, 0x00, 0x00]) iv0)
      (node 0x0B noKey t0)) = badLength 10 ∧
    replyOf (exec (.pingRx .F v20 iv0) (node 0x0B noKey t0)) = good (.ping .ownResponse) [.pingReport (-100500)] := by
  decide +kernel
/-- T-TX row 1. -/
theorem test_txFrame : replyOf (exec (.txFrame 0x0A 0xFF 2 hello iv1) (node 0x0A noKey t0)) = good .none [.send v10] := by
  decide +kernel
/-- T-TX rows 4 and 6. -/
theorem test_txFrame_refuses :
    replyOf (exec (.txFrame 0x0A 0xFF 2 (ramp 201) iv0) (node 0x0A noKey t0)) = bad (.payloadTooLarge 201) [] ∧
    replyOf (exec (.txFrame 0x0A 0xFF 2 (ramp 177) iv0) (node 0x0A theKey t0)) = bad (.payloadTooLarge 177) [] := by
  decide +kernel
/-- T-RX row 6: received with the key, decrypted, checked and rendered. -/
theorem test_rxFrame : replyOf (exec (.rxFrame v12 iv0) (node 0x0B theKey t0)) = via .chat (heard .direct hello) := by
  decide +kernel
/-- T-RX rows 1, 3 and 4: without a key; a changed byte; `magic` is checked first. -/
theorem test_rxFrame_plain :
    replyOf (exec (.rxFrame v10 iv0) (node 0x0B noKey t0)) = via .chat (heard .broadcast hello) ∧
    replyOf (exec (.rxFrame (patch v10 8 0x69) iv0) (node 0x0B noKey t0)) = bad (.badCrc 0x802537D2 0xBC405B3F) [] ∧
    replyOf (exec (.rxFrame (patch (patch v10 0 0x4D) 8 0x69) iv0) (node 0x0B noKey t0)) = bad .badMagic [] := by
  decide +kernel
/-- T-SUB row 2. -/
theorem test_shout : replyOf (exec (.shout hello iv0) (node 0x0A noKey t0)) = good .none [.send v10] := by decide +kernel
/-- T-SUB row 5. -/
theorem test_shout_refuses : replyOf (exec (.shout (ramp 177) iv0) (node 0x0A theKey t0)) = bad (.payloadTooLarge 177) [] := by
  decide +kernel
/-- T-SUB rows 7 and 9. -/
theorem test_tell : replyOf (exec (.tell hello 0x0A iv0) (node 0x0B noKey t0)) = good .none [.send v11] ∧
    replyOf (exec (.tell hello 0xFF iv0) (node 0x0A noKey t0)) = good .none [.send v10] := by decide +kernel
/-- T-SUB row 10. -/
theorem test_pingSend : replyOf (exec (.pingSend 0x0A iv0) (node 0x0B noKey t128)) = good .none [.send v20] := by
  decide +kernel
/-- T-RTT rows 2, 4, 5 and 11. -/
theorem test_rttMs : rttMs ⟨100, 200⟩ ⟨101, 40⟩ = 375 ∧ rttMs ⟨100, 13⟩ ⟨101, 10⟩ = 989 ∧
    rttMs ⟨100, 13⟩ ⟨100, 10⟩ = -11 ∧ rttMs ⟨100, 128⟩ ⟨0, 0⟩ = -100500 := by decide +kernel

/-! ## The protocol-id map: one step for the word of each row (T-DISP, T-CHAT, T-PING) -/

/-- The reply to the frame `B` as a word of a `PROTO` format. -/
def mapReply (fmt : Format) (B : Frame) (s : State) : Option Response :=
  replyOf (step (asking s (.word fmt (B.list ++ iv1.list))))

theorem test_map_protoReservedF : mapReply .protoF (patch v10 4 0x00) (node 0x0B noKey t0) = dropped := by
  decide +kernel
theorem test_map_protoTimeF : mapReply .protoF (patch v10 4 0x01) (node 0x0B noKey t0) = via .timeExternal (good .none []) := by
  decide +kernel
theorem test_map_protoChatF : mapReply .protoF v10 (node 0x0B noKey t0) = via .chat (heard .broadcast hello) := by
  decide +kernel
theorem test_map_protoPingF : mapReply .protoF v20 (node 0x0A noKey t192) =
    via .ping (good (.ping .probeToUs) [.send v21]) := by decide +kernel
theorem test_map_protoUnrecognized04F : mapReply .protoF (patch v10 4 0x06) (node 0x0B noKey t0) = dropped := by
  decide +kernel
theorem test_map_protoUnrecognized08F : mapReply .protoF (patch v10 4 0x0D) (node 0x0B noKey t0) = dropped := by
  decide +kernel
theorem test_map_protoUnrecognized10F : mapReply .protoF (patch v10 4 0x1A) (node 0x0B noKey t0) = dropped := by
  decide +kernel
theorem test_map_protoUnrecognized20F : mapReply .protoF (patch v10 4 0x35) (node 0x0B noKey t0) = dropped := by
  decide +kernel
theorem test_map_protoUnrecognized40F : mapReply .protoF (patch v10 4 0x6A) (node 0x0B noKey t0) = dropped := by
  decide +kernel
theorem test_map_protoUnrecognized80F : mapReply .protoF (patch v10 4 0xD5) (node 0x0B noKey t0) = dropped := by
  decide +kernel
theorem test_map_protoReservedS : mapReply .protoS (patch v13 20 0x00) (node 0x0B noKey t0) = dropped := by
  decide +kernel
theorem test_map_protoTimeS : mapReply .protoS (patch v13 20 0x01) (node 0x0B noKey t0) = via .timeExternal (good .none []) := by
  decide +kernel
theorem test_map_protoChatS : mapReply .protoS v13 (node 0x0B noKey t0) = via .chat (heard .direct hello) := by
  decide +kernel
theorem test_map_protoPingS : mapReply .protoS (patch v13 20 0x03) (node 0x0B noKey t0) = via .ping (badLength 5) := by
  decide +kernel
theorem test_map_protoUnrecognized04S : mapReply .protoS (patch v13 20 0x06) (node 0x0B noKey t0) = dropped := by
  decide +kernel
theorem test_map_protoUnrecognized08S : mapReply .protoS (patch v13 20 0x0D) (node 0x0B noKey t0) = dropped := by
  decide +kernel
theorem test_map_protoUnrecognized10S : mapReply .protoS (patch v13 20 0x1A) (node 0x0B noKey t0) = dropped := by
  decide +kernel
theorem test_map_protoUnrecognized20S : mapReply .protoS (patch v13 20 0x35) (node 0x0B noKey t0) = dropped := by
  decide +kernel
theorem test_map_protoUnrecognized40S : mapReply .protoS (patch v13 20 0x6A) (node 0x0B noKey t0) = dropped := by
  decide +kernel
theorem test_map_protoUnrecognized80S : mapReply .protoS (patch v13 20 0xD5) (node 0x0B noKey t0) = dropped := by
  decide +kernel

/-! ## The step and the command surface -/

/-- R82. -/
theorem test_step_refuses_selector :
    refusalOf (step (asking (node 0x0A noKey t0) (.word .op [0x13]))) = some (.undecodable (.unassignedSelector 0x13)) := by
  decide +kernel
/-- R213: with nothing requested the block is idle. -/
theorem test_step_idle : goesTo (step (node 0x0A theKey t0)) = some (node 0x0A theKey t0) := by decide +kernel
/-- R232: a frame that arrives before the callback is registered is lost; a second registration is refused. -/
theorem test_step_callback :
    replyOf (step (asking { node 0x0B noKey t0 with callback := false } (.receive v10 iv0))) = none ∧
    replyOf (step (asking (node 0x0B noKey t0) (.receive v10 iv0))) = via .chat (heard .broadcast hello) ∧
    refusalOf (step (asking (node 0x0B noKey t0) .registerCallback)) = some .secondCallback := by decide +kernel
/-- R230. -/
theorem test_step_powerUp : keyAfter (step (asking (node 0x0B theKey t0) .powerUp)) = some noKey := by decide +kernel
/-- T-CMD rows 1, 5 and 6: `/ping 0A`, `/ping 0A1`, `/ping 0x0A`. -/
theorem test_line_ping :
    parseLine (vectorConfig 0x0A) [0x2F, 0x70, 0x69, 0x6E, 0x67, 0x20, 0x30, 0x41] iv0 = .op (.pingSend 0x0A iv0) ∧
    parseLine (vectorConfig 0x0A) [0x2F, 0x70, 0x69, 0x6E, 0x67, 0x20, 0x30, 0x41, 0x31] iv0 = .malformed ∧
    parseLine (vectorConfig 0x0A) [0x2F, 0x70, 0x69, 0x6E, 0x67, 0x20, 0x30, 0x78, 0x30, 0x41] iv0 = .malformed := by decide +kernel
/-- T-CMD rows 7, 9, 10 and 12: `@0A hello`, `@0A`, `@0A ` and `@ hello`. -/
theorem test_line_tell :
    parseLine (vectorConfig 0x0A) ([0x40, 0x30, 0x41, 0x20] ++ hello) iv0 = .op (.tell hello 0x0A iv0) ∧
    parseLine (vectorConfig 0x0A) [0x40, 0x30, 0x41] iv0 = .malformed ∧
    parseLine (vectorConfig 0x0A) [0x40, 0x30, 0x41, 0x20] iv0 = .malformed ∧
    parseLine (vectorConfig 0x0A) ([0x40, 0x20] ++ hello) iv0 = .malformed := by decide +kernel
/-- T-CMD rows 14, 16, 17 and 18: `/pingx 0A` is chat text; the empty line; `/help`; `/date`. -/
theorem test_line_other :
    parseLine (vectorConfig 0x0A) [0x2F, 0x70, 0x69, 0x6E, 0x67, 0x78, 0x20, 0x30, 0x41] iv0 =
      .op (.shout [0x2F, 0x70, 0x69, 0x6E, 0x67, 0x78, 0x20, 0x30, 0x41] iv0) ∧
    parseLine (vectorConfig 0x0A) [] iv0 = .nothing ∧
    parseLine (vectorConfig 0x0A) [0x2F, 0x68, 0x65, 0x6C, 0x70] iv0 = .help ∧
    parseLine (vectorConfig 0x0A) [0x2F, 0x64, 0x61, 0x74, 0x65] iv0 = .date := by decide +kernel
/-- T-CMD rows 19, 20, 22, 23, 27 and 28. -/
theorem test_line_key :
    parseLine (vectorConfig 0x0A) (setkeyWord ++ [0x20, 0x36, 0x42, 0x36, 0x35, 0x37, 0x39]) iv0 = .op (.keySetLiteral keyText) ∧
    parseLine (vectorConfig 0x0A) (setkeyWord ++ [0x20, 0x31]) iv0 = .op (.keySetIndex 1) ∧
    parseLine (vectorConfig 0x0A) (setkeyWord ++ [0x20, 0x30, 0x30]) iv0 = .op (.keySetLiteral [0x00]) ∧
    parseLine (vectorConfig 0x0A) (setkeyWord ++ [0x20, 0x32]) iv0 = .malformed ∧
    parseLine (vectorConfig 0x0A) clearkeyWord iv0 = .op .keyClear ∧
    parseLine (vectorConfig 0x0A) testencWord iv0 = .op .selftest := by decide +kernel
/-- P5: `/testenc` with no key is reported to the user. -/
theorem test_line_reports : replyOf (step (asking (node 0x0B noKey t0) (.line testencWord iv0))) =
    bad .noKey [.commandError .noKey] := by decide +kernel

/-! ## Witnesses: operands that meet the hypotheses of each statement, at the boundary of each clause -/

/-- A frame of length `n` under `L`, from `src` to `dst`. -/
def lengthFrame (L : Layout) (src dst n : Byte) : Frame :=
  patch (patch (patch emptyFrame 2 src) 3 dst) (off L .length) n
/-- A ping frame of length `n` under `L` whose packet names `origin`. -/
def originFrame (L : Layout) (src dst n origin : Byte) : Frame :=
  patch (patch (lengthFrame L src dst n) (off L .payload + 10) origin) (off L .protocol) 3

theorem witness_DecodeEncodeRoundTrip : (Instr.protoPingS (patch emptyFrame 20 0x03) iv0).WellFormed ∧
    (Instr.protoUnrecognized80F (patch emptyFrame 4 0x80) iv0).WellFormed ∧
    (Instr.protoUnrecognized80S (patch emptyFrame 20 0xFF) iv0).WellFormed ∧ (Instr.tell [] 0 iv0).WellFormed := by decide +kernel
theorem witness_DecodedWordIsItsEncoding : decode .op [0x06, 0xFF] = .ok (.keySetIndex 0xFF) ∧
    decode .protoS (encodeProto v13 iv0) = .ok (.protoChatS v13 iv0) := by decide +kernel
theorem witness_UnassignedSelectorRefused : 0x13 ≤ (0x13#8 : Byte).toNat ∧ (0x13#8 : Byte).toNat ≤ 0x1F ∧
    0x13 ≤ (0x1F#8 : Byte).toNat ∧ (0x1F#8 : Byte).toNat ≤ 0x1F ∧
    (asking (node 0x0A noKey t0) (.word .op [0x1F, 0x00])).inbox = ⟨.word .op (0x1F :: [0x00]), t0⟩ :: [] := by decide +kernel
theorem witness_StepRunsDecodedInstruction :
    (asking (node 0x0A noKey t128) (.word .op [0x07])).inbox = ⟨.word .op [0x07], t128⟩ :: [] ∧
    decode .op [0x07] = .ok .keyClear := by decide +kernel
theorem witness_FrameBuildLaysOutFields : (ramp 200).length ≤ cap .F ∧ cap .F < (ramp 201).length ∧
    (ramp 176).length ≤ cap .S ∧ cap .S < (ramp 177).length := by decide +kernel
theorem witness_FrameValidateComparesLength :
    (fldByte (lengthFrame .F 0 0 200) .F .length).toNat ≤ cap .F ∧ cap .F < (fldByte (lengthFrame .F 0 0 201) .F .length).toNat ∧
    (fldByte (lengthFrame .S 0 0 176) .S .length).toNat ≤ cap .S ∧
    cap .S < (fldByte (lengthFrame .S 0 0 177) .S .length).toNat := by decide +kernel
theorem witness_CrcCoversPrecedingBytes : (∀ k, k < 208 → v10.at k = (patch v10 208 0xFF).at k) ∧ v10 ≠ patch v10 208 0xFF := by
  decide +kernel
theorem witness_CrcGenWritesTrailerOnly : (vectorConfig 0x0A).crcOrder = .little ∧
    { vectorConfig 0x0A with crcOrder := .big }.crcOrder = .big := by decide
theorem witness_CrcCheckComparesTrailer : storedCrc (vectorConfig 0x0A) v10 = crcOf (vectorConfig 0x0A) v10 ∧
    storedCrc (vectorConfig 0x0A) (patch v10 211 0x81) ≠ crcOf (vectorConfig 0x0A) (patch v10 211 0x81) := by decide +kernel
theorem witness_CrcCheckComparesTrailer_generated :
    Answers (.crcGen v10) (node 0x0A noKey t0) (okay (.frame (crcGenFrame (vectorConfig 0x0A) v10)) []) := rfl
theorem witness_KeySetLiteralPadsOrRefuses : 1 ≤ [0x00#8].length ∧ (zeros 32).length ≤ KeySize.aes256.bytes ∧
    ([] : List Byte).length = 0 ∧ KeySize.aes256.bytes < (zeros 33).length := by decide
/-- Two stored keys that an index can name but no key can be: an empty one and one too long. -/
def oddStore : Config := { vectorConfig 0x0A with keystore0 := .ofBytes [], keystore1 := .ofBytes (zeros 33) }
theorem witness_KeySetIndexReadsKeystore :
    1 ≤ (vectorConfig 0x0A).keystore0.bytes.length ∧ (vectorConfig 0x0A).keystore0.bytes.length ≤ KeySize.aes256.bytes ∧
    1 ≤ (vectorConfig 0x0A).keystore1.bytes.length ∧ (vectorConfig 0x0A).keystore1.bytes.length ≤ KeySize.aes256.bytes ∧
    oddStore.keystore0.bytes.length = 0 ∧ KeySize.aes256.bytes < oddStore.keystore1.bytes.length ∧
    2 ≤ (2#8 : Byte).toNat ∧ 2 ≤ (0xFF#8 : Byte).toNat := by decide
theorem witness_KeyClearMakesKeyAbsent : exec .keyClear (node 0x0A theKey t0) =
    .next { node 0x0A noKey t0 with resp := some (okay .none []) } := rfl
theorem witness_OnlyKeyOperationsWriteKey : mayWriteKey .frameClear = false ∧ mayWriteKey .keyClear = true ∧
    exec .frameClear (node 0x0A theKey t0) =
      .next { node 0x0A theKey t0 with resp := some (okay (.frame emptyFrame) []) } := ⟨rfl, rfl, rfl⟩
theorem witness_StepKeepsKeyCanonical : KeyReg.Canonical KeySize.aes256 theKey ∧ KeyReg.Canonical KeySize.aes256 noKey ∧
    (goesTo (step (asking (node 0x0A theKey t0) (.word .op [0x07])))).isSome = true := by
  refine ⟨⟨by decide, fun _ => by decide, ?_⟩, ⟨by decide, ?_, fun _ => by decide⟩, by decide +kernel⟩
  · intro h; exact absurd h (by decide)
  · intro h; exact absurd h (by decide)
theorem witness_SboxIsAffineOfInverse : (0x01#8 : Byte) ≠ 0#8 ∧ (0xFF#8 : Byte) ≠ 0#8 := by decide
/-- Two ciphertext blocks: the second is the one after the changed block. -/
theorem witness_ChangedBlockReachesNextOnly :
    (cbcDecrypt id (ivBlock v13) [ivBlock v12, ivBlock v13]).tail.head? = some ((ivBlock v13).xor (ivBlock v12)) := rfl
theorem witness_ChangedBlockReachesNextOnly_injective : (∀ x y : Block, id x = id y → x = y) ∧ hexBlock 0 ≠ hexBlock 1 :=
  ⟨fun _ _ h => h, by decide⟩
theorem witness_EncryptTransformsPayloadOnly : (node 0x0A theKey t0).key.valid = true ∧ (node 0x0A noKey t0).key.valid = false := by
  decide
theorem witness_DecryptTransformsPayloadOnly : (node 0xFF theKey t0).key.valid = true ∧ (node 0xFF noKey t0).key.valid = false := by
  decide
theorem witness_EncryptDecryptLaws : (node 0x0A theKey t0).key.valid = true ∧
    (node 0x0B theKey t192).key.bytes = (node 0x0A theKey t0).key.bytes ∧
    (node 0x0B theKey t192).cfg.keySize = (node 0x0A theKey t0).cfg.keySize ∧ (node 0x0A noKey t0).key.valid = false := by decide
theorem witness_SelftestFindsNoDifference : (node 0x0A theKey t0).key.valid = true ∧ State.reset.key.valid = false := ⟨rfl, rfl⟩
theorem witness_DispatchRoutesByProtocol : fldByte v10 .F .protocol = 2#8 ∧ fldByte v13 .S .protocol = 2#8 ∧
    fldByte v20 .F .protocol = 3#8 ∧ fldByte (patch v13 20 1) .S .protocol = 1#8 ∧ fldByte emptyFrame .S .protocol = 0#8 ∧
    4 ≤ (fldByte (patch v10 4 4) .F .protocol).toNat ∧ 4 ≤ (fldByte (patch v10 4 0xFF) .F .protocol).toNat := by decide +kernel
theorem witness_ProtocolRowsAgreeWithDispatch : (protoInstr .F .ping v20 iv0).WellFormed ∧
    (protoInstr .S .chat v13 iv0).WellFormed ∧ (protoInstr .F .unrecognized04 (patch v10 4 0x07) iv0).WellFormed := by decide +kernel
theorem witness_ReservedAndTimeRowsHaveNoEffect :
    Instr.protoReservedF emptyFrame iv0 ∈ [Instr.protoReservedF emptyFrame iv0] := List.mem_singleton_self _
theorem witness_ChatRxClassifies : cap .F < (fldByte (lengthFrame .F 0x0A 0x0B 201) .F .length).toNat ∧
    cap .S < (fldByte (lengthFrame .S 0x0A 0x0B 177) .S .length).toNat ∧
    (fldByte (lengthFrame .F 0x0A 0x0B 200) .F .length).toNat ≤ cap .F ∧
    fldByte (lengthFrame .F 0x0A 0x0B 200) .F .destination = (vectorConfig 0x0B).nodeAddr ∧
    (fldByte (lengthFrame .S 0x0A 0xFF 176) .S .length).toNat ≤ cap .S ∧
    fldByte (lengthFrame .S 0x0A 0xFF 176) .S .destination ≠ (vectorConfig 0x0B).nodeAddr ∧
    fldByte (lengthFrame .S 0x0A 0xFF 176) .S .destination = 0xFF#8 ∧
    fldByte (lengthFrame .S 0x0A 0x0C 0) .S .destination ≠ (vectorConfig 0x0B).nodeAddr ∧
    fldByte (lengthFrame .S 0x0A 0x0C 0) .S .destination ≠ 0xFF#8 := by decide +kernel
theorem witness_ChatRowsRender : (fldByte (lengthFrame .F 0x0A 0x0B 200) .F .length).toNat ≤ 200 ∧
    (lengthFrame .F 0x0A 0x0B 200).at 3 = (vectorConfig 0x0B).nodeAddr ∧
    (lengthFrame .F 0x0A 0xFF 200).at 3 ≠ (vectorConfig 0x0B).nodeAddr ∧ (lengthFrame .F 0x0A 0xFF 200).at 3 = 0xFF#8 ∧
    (fldByte (lengthFrame .S 0x0A 0x0B 176) .S .length).toNat ≤ 176 ∧
    (lengthFrame .S 0x0A 0x0B 176).at 3 = (vectorConfig 0x0B).nodeAddr ∧
    (lengthFrame .S 0x0A 0xFF 176).at 3 ≠ (vectorConfig 0x0B).nodeAddr ∧
    (lengthFrame .S 0x0A 0xFF 176).at 3 = 0xFF#8 := by decide +kernel
theorem witness_ChatTextReadsWithinLength : 200 ≤ cap .F ∧ 176 ≤ cap .S ∧ (chatText .F v10 200).length < 200 ∧
    (∀ k, k < 5 → (patch v10 13 0xFF).at (off .F .payload + k) = v10.at (off .F .payload + k)) := by decide +kernel
theorem witness_PingRxClassifies : (fldByte (originFrame .F 0x0A 0x0B 10 0x0A) .F .length).toNat < 11 ∧
    cap .F < (fldByte (originFrame .F 0x0A 0x0B 201 0x0A) .F .length).toNat ∧
    cap .S < (fldByte (originFrame .S 0x0A 0x0B 177 0x0A) .S .length).toNat ∧
    11 ≤ (fldByte (originFrame .F 0x0A 0x0B 11 0x0A) .F .length).toNat ∧
    (fldByte (originFrame .F 0x0A 0x0B 200 0x0A) .F .length).toNat ≤ cap .F ∧
    (fldByte (originFrame .S 0x0A 0x0B 176 0x0A) .S .length).toNat ≤ cap .S ∧
    fldByte (originFrame .F 0x0A 0x0B 11 0x0A) .F .destination = (vectorConfig 0x0B).nodeAddr ∧
    (originFrame .F 0x0A 0x0B 11 0x0A).at (off .F .payload + 10) ≠ (vectorConfig 0x0B).nodeAddr := by decide +kernel
theorem witness_PingRxClassifies_others :
    fldByte (originFrame .F 0x0A 0x0B 11 0x0B) .F .destination = (vectorConfig 0x0B).nodeAddr ∧
    (originFrame .F 0x0A 0x0B 11 0x0B).at (off .F .payload + 10) = (vectorConfig 0x0B).nodeAddr ∧
    fldByte (originFrame .S 0x0B 0xFF 11 0x0B) .S .source = (vectorConfig 0x0B).nodeAddr ∧
    fldByte (originFrame .S 0x0B 0xFF 11 0x0B) .S .destination ≠ (vectorConfig 0x0B).nodeAddr ∧
    fldByte (originFrame .S 0x0A 0x0C 11 0x0A) .S .source ≠ (vectorConfig 0x0B).nodeAddr ∧
    fldByte (originFrame .S 0x0A 0x0C 11 0x0A) .S .destination ≠ (vectorConfig 0x0B).nodeAddr := by decide +kernel
theorem witness_PingRowsAnswerAndReport : 11 ≤ (fldByte (originFrame .S 0x0A 0x0B 11 0x0A) .S .length).toNat ∧
    (fldByte (originFrame .S 0x0A 0x0B 11 0x0A) .S .length).toNat ≤ cap .S ∧
    fldByte (originFrame .S 0x0A 0x0B 11 0x0A) .S .destination = (vectorConfig 0x0B).nodeAddr ∧
    (originFrame .S 0x0A 0x0B 11 0x0A).at (off .S .payload + 10) ≠ (vectorConfig 0x0B).nodeAddr ∧
    (originFrame .F 0x0A 0x0B 200 0x0B).at (off .F .payload + 10) = (vectorConfig 0x0B).nodeAddr := by decide +kernel
theorem witness_ResponseIsNeverAnswered :
    fldByte (originFrame .F 0x0A 0x0B 11 0x0B) .F .destination = (originFrame .F 0x0A 0x0B 11 0x0B).at (off .F .payload + 10) ∧
    (goesTo (exec (.pingRx .F (originFrame .F 0x0A 0x0B 11 0x0B) iv0) (node 0x0B noKey t0))).isSome = true := by decide +kernel
theorem witness_RxFrameChecksThenDispatches : (node 0x0B noKey t0).key.valid = false ∧ memRead v10 0 2 = (vectorConfig 0x0B).magic.list ∧
    storedCrc (vectorConfig 0x0B) v10 = crcOf (vectorConfig 0x0B) v10 ∧
    storedCrc (vectorConfig 0x0B) (patch v10 8 0x69) ≠ crcOf (vectorConfig 0x0B) (patch v10 8 0x69) ∧
    memRead (patch v10 0 0x4D) 0 2 ≠ (vectorConfig 0x0B).magic.list := by decide +kernel
theorem witness_RxFrameChecksThenDispatches_secure : (node 0x0B theKey t0).key.valid = true ∧
    Answers (.decrypt (patch v12 0 0x4D)) (node 0x0B theKey t0)
      (okay (.frame (decryptFrame (vectorConfig 0x0B) theKey.bytes (patch v12 0 0x4D))) []) ∧
    memRead (patch v12 0 0x4D) 0 2 ≠ (vectorConfig 0x0B).magic.list := ⟨rfl, rfl, by decide +kernel⟩
theorem witness_TxFrameBuildsSumsEncryptsSends : Layout.S = (if (node 0x0A theKey t0).key.valid then .S else .F) ∧
    Layout.F = (if (node 0x0A noKey t0).key.valid then .S else .F) ∧ (ramp 176).length ≤ cap .S ∧ cap .S < (ramp 177).length ∧
    (ramp 200).length ≤ cap .F ∧ cap .F < (ramp 201).length := by decide +kernel
theorem witness_ShoutAndTellTransmitChat : Layout.S = (if (node 0xFF theKey t0).key.valid then .S else .F) ∧
    ([] : List Byte).length ≤ cap .S ∧ cap .S < (ramp 200).length := by decide +kernel
theorem witness_TransmittedFrameIsReceived_plain : (node 0x0B noKey t192).key = (node 0x0A noKey t0).key ∧
    (vectorConfig 0x0B).magic = (vectorConfig 0x0A).magic ∧ (vectorConfig 0x0B).crc = (vectorConfig 0x0A).crc ∧
    (vectorConfig 0x0B).crcOrder = (vectorConfig 0x0A).crcOrder ∧ (vectorConfig 0x0B).keySize = (vectorConfig 0x0A).keySize ∧
    Layout.F = (if (node 0x0A noKey t0).key.valid then .S else .F) ∧ (ramp 200).length ≤ cap .F := by decide +kernel
theorem witness_TransmittedFrameIsReceived : (node 0x0B theKey t192).key = (node 0x0A theKey t0).key ∧
    (vectorConfig 0x0B).magic = (vectorConfig 0x0A).magic ∧ (vectorConfig 0x0B).crc = (vectorConfig 0x0A).crc ∧
    (vectorConfig 0x0B).crcOrder = (vectorConfig 0x0A).crcOrder ∧ (vectorConfig 0x0B).keySize = (vectorConfig 0x0A).keySize ∧
    Layout.S = (if (node 0x0A theKey t0).key.valid then .S else .F) ∧ (ramp 176).length ≤ cap .S := by decide +kernel
/-- Program P2 with a key: A is 0x0B at (100, 0x80), B is 0x0A at (100, 0xC0). -/
theorem witness_PingExchangeReportsLatency : (node 0x0A theKey t192).key = (node 0x0B theKey t128).key ∧
    (node 0x0B theKey t0).key = (node 0x0B theKey t128).key ∧ (node 0x0B theKey t0).cfg = (node 0x0B theKey t128).cfg ∧
    (vectorConfig 0x0A).magic = (vectorConfig 0x0B).magic ∧ (vectorConfig 0x0A).crc = (vectorConfig 0x0B).crc ∧
    (vectorConfig 0x0A).crcOrder = (vectorConfig 0x0B).crcOrder ∧ (vectorConfig 0x0A).keySize = (vectorConfig 0x0B).keySize ∧
    (vectorConfig 0x0A).nodeAddr ≠ (vectorConfig 0x0B).nodeAddr ∧ TimeLe t128 t192 := by
  refine ⟨rfl, rfl, rfl, rfl, rfl, rfl, rfl, by decide, .inr ⟨rfl, by decide⟩⟩
/-- The same exchange with B's clock behind A's: the clause on the sign does not apply, the others do. -/
theorem witness_PingExchangeReportsLatency_behind : (node 0x0A noKey t128).key = (node 0x0B noKey t192).key ∧
    (node 0x0B noKey t0).key = (node 0x0B noKey t192).key ∧ (node 0x0B noKey t0).cfg = (node 0x0B noKey t192).cfg ∧
    (vectorConfig 0x0A).nodeAddr ≠ (vectorConfig 0x0B).nodeAddr ∧ ¬ TimeLe t192 t128 :=
  ⟨rfl, rfl, rfl, by decide, by rintro (h | ⟨_, h⟩) <;> exact absurd h (by decide)⟩
theorem witness_RoundTripTimeNonnegative : TimeLe ⟨100, 255⟩ ⟨101, 0⟩ ∧ TimeLe ⟨100, 0⟩ ⟨100, 0⟩ :=
  ⟨.inl (by decide), .inr ⟨rfl, by decide⟩⟩
theorem witness_StatusTableHolds :
    (goesTo (exec (.keySetLiteral []) (node 0x0A noKey t0))).bind State.resp = some (failed .argumentError []) := by decide +kernel
theorem witness_FailedOperationProducesNothing : (failed (.malformedFrame 10) [.diagnostic .malformedFrame]).status ≠ .ok ∧
    replyOf (exec (.pingRx .F (originFrame .F 0x0A 0x0B 10 0x0A) iv0) (node 0x0B noKey t0)) =
      some (failed (.malformedFrame 10) [.diagnostic .malformedFrame]) := by decide +kernel
theorem witness_AtMostOneSend : (goesTo (exec (.pingSend 0x0A iv0) (node 0x0B noKey t128))).isSome = true ∧
    maySend .frameClear = false ∧ (goesTo (exec .frameClear (node 0x0B noKey t128))).isSome = true ∧
    (failed (.payloadTooLarge 201) []).status.kind.isError = true ∧
    replyOf (exec (.shout (ramp 201) iv0) (node 0x0B noKey t128)) = bad (.payloadTooLarge 201) [] := by decide +kernel
theorem witness_KeyInvisibleAboveTransform : fldByte v10 .F .protocol ≠ 3#8 ∧ fldByte v20 .F .protocol = 3#8 ∧
    Instr.chatRx .F v10 ∈ [Instr.frameClear, .frameBuild .F 0 0 0 [] iv0, .frameValidate .F v10, .crcGen v10, .crcCheck v10,
      .chatRx .F v10] := by decide +kernel
/-- A state that has sent a frame. -/
def sender : State := { asking (node 0x0A noKey t0) (.word .op [0x07]) with log := [.send v10] }
theorem witness_StepKeepsSentMagic : sender.SentCarryMagic ∧ (goesTo (step sender)).isSome = true := by
  refine ⟨fun B hB => ?_, by decide +kernel⟩
  have h : B = v10 := by simpa [sender, sentFrames] using hB
  subst h
  decide +kernel
theorem witness_StepKeepsInputsAndHistory : (goesTo (step sender)).map State.log = some [.send v10] := by decide +kernel
theorem witness_ResetLeavesKeyAbsent : State.reset.key.valid = false ∧ (node 0xFF noKey t192).key.valid = false ∧
    mayWriteKey .frameClear = false ∧ (goesTo (exec .frameClear (node 0xFF noKey t192))).isSome = true := by decide +kernel
theorem witness_PowerUpResetsBlock : (asking (node 0x0B theKey t0) .powerUp).inbox = ⟨.powerUp, t0⟩ :: [] := rfl
theorem witness_ReceiveEventRunsRxFrame : (asking (node 0x0B theKey t0) (.receive v12 iv0)).inbox = ⟨.receive v12 iv0, t0⟩ :: [] ∧
    (node 0x0B theKey t0).callback = true ∧ State.reset.callback = false ∧
    (asking State.reset .registerCallback).inbox = ⟨.registerCallback, State.reset.now⟩ :: [] := ⟨rfl, rfl, rfl, rfl⟩
theorem witness_EveryOperationCompletes :
    (asking (node 0x0B noKey t0) (.receive emptyFrame iv0)).inbox = ⟨.receive emptyFrame iv0, t0⟩ :: [] ∧
    (asking (node 0x0B theKey t0) (.line pingWord iv0)).inbox = ⟨.line pingWord iv0, t0⟩ :: [] := ⟨rfl, rfl⟩
theorem witness_HexParsingRule : parseHexBytes [0x66, 0x46] = some [0xFF] ∧ space ∉ ([0x30] : List Byte) ∧ hexVal 0x39 = some 9 ∧ hexVal 0x66 = some 15 ∧ hexVal 0x47 = none ∧ hexVal 0x3A = none ∧
    ([0x30, 0x30, 0x30] : List Byte).length = 3 := by decide
theorem witness_PingLineSendsProbe : space ∉ ([0x30, 0x41] : List Byte) ∧ parseHexToken [0x30, 0x41] = some 0x0A ∧
    parseHexToken [0x30, 0x41, 0x31] = none ∧ parseHexToken [] = none ∧
    (asking (node 0x0B noKey t0) (.line (pingWord ++ space :: ([0x30, 0x41] ++ [space])) iv0)).inbox =
      ⟨.line (pingWord ++ space :: ([0x30, 0x41] ++ [space])) iv0, t0⟩ :: [] := by decide +kernel
theorem witness_TellLineSendsMessage : space ∉ ([0x30, 0x41] : List Byte) ∧
    firstWord [atSign, 0x30, 0x41] ∉ (vectorConfig 0x0B).keyWord :: (vectorConfig 0x0B).keyClearWord ::
      (vectorConfig 0x0B).selftestWord :: fixedWords ∧ parseHexToken [0x30, 0x41] = some 0x0A ∧ hello ≠ [] ∧
    (ramp 176).length ≤ cap (layoutInForce theKey) ∧ cap (layoutInForce theKey) < (ramp 177).length ∧
    parseHexToken [0x47, 0x31] = none ∧
    (asking (node 0x0B noKey t0) (.line (atSign :: ([0x30, 0x41] ++ space :: hello)) iv0)).inbox =
      ⟨.line (atSign :: ([0x30, 0x41] ++ space :: hello)) iv0, t0⟩ :: [] := by decide +kernel
theorem witness_OtherLineIsShouted : hello ≠ [] ∧ firstWord hello ∉ (vectorConfig 0x0B).keyWord ::
      (vectorConfig 0x0B).keyClearWord :: (vectorConfig 0x0B).selftestWord :: fixedWords ∧ hello.head? ≠ some atSign ∧
    (List.replicate 200 0x61#8).length ≤ cap (layoutInForce noKey) ∧
    cap (layoutInForce noKey) < (List.replicate 201 0x61#8).length ∧
    (asking (node 0x0B noKey t0) (.line hello iv0)).inbox = ⟨.line hello iv0, t0⟩ :: [] := by decide +kernel
theorem witness_HelpDateAndEmptyLines : ([space, 0x78] : List Byte).head? = some space ∧
    (asking (node 0x0B noKey t0) (.line [] iv0)).inbox = ⟨.line [] iv0, t0⟩ :: [] := by decide +kernel
theorem witness_KeyLinesReachKeyOperations : WordsApart (vectorConfig 0x0B) ∧ 1 ≤ keyText.length ∧
    keyText.length ≤ KeySize.aes256.bytes ∧ (zeros 32).length ≤ KeySize.aes256.bytes ∧ KeySize.aes256.bytes < (zeros 33).length ∧
    1 ≤ (vectorConfig 0x0B).keystore0.bytes.length ∧ (vectorConfig 0x0B).keystore1.bytes.length ≤ KeySize.aes256.bytes ∧
    (asking (node 0x0B noKey t0) (.line ((vectorConfig 0x0B).keyWord ++ space :: (hexText keyText ++ [space])) iv0)).inbox =
      ⟨.line ((vectorConfig 0x0B).keyWord ++ space :: (hexText keyText ++ [space])) iv0, t0⟩ :: [] :=
  ⟨⟨⟨by decide, by decide⟩, ⟨by decide, by decide⟩, ⟨by decide, by decide⟩, by decide, by decide, by decide⟩,
    by decide, by decide, by decide, by decide, by decide, by decide, rfl⟩
/-- Arguments of either case, of odd length, with a character that is no digit, and a literal of 33 bytes. -/
theorem witness_KeyLinesReachKeyOperations_argument : space ∉ ([0x36, 0x62, 0x34, 0x46] : List Byte) ∧
    parseHexBytes [0x36, 0x62, 0x34, 0x46] = some [0x6B, 0x4F] ∧ ([0x36, 0x62, 0x34] : List Byte).length % 2 = 1 ∧
    hexVal 0x67 = none ∧ space ∉ hexText (zeros 33) ∧ parseHexBytes (hexText (zeros 33)) = some (zeros 33) ∧
    (hexText (zeros 33)).length ≠ 1 := by decide +kernel
/-- A key-store whose first record is empty and whose second is one byte too long. -/
theorem witness_KeyLinesReachKeyOperations_index :
    WordsApart { vectorConfig 0x0B with keystore0 := .ofBytes [], keystore1 := .ofBytes (zeros 33) } ∧
    (KeyRecord.ofBytes []).bytes.length = 0 ∧ KeySize.aes256.bytes < (KeyRecord.ofBytes (zeros 33)).bytes.length :=
  ⟨⟨⟨by decide, by decide⟩, ⟨by decide, by decide⟩, ⟨by decide, by decide⟩, by decide, by decide, by decide⟩, rfl, by decide⟩

end Sys2Proof.Tests
end

section
/-! SUPPORT. The scope family (00_scope.md): a step runs the instruction its request decodes to, and the block after reset,
with its key absent until a key operation. -/

namespace Sys2Proof.Machine

/-! ## The step on a request for an operation (R12, R50) -/

/-- A request at the head of the inbox is served in the state it is taken off from. -/
theorem step_of_inbox_cons {s : State} {r : Request} {rest : List Request} (h : s.inbox = r :: rest) :
    step s = serve r.body (s.taking r rest) := by
  rcases step_cases s with ⟨hnil, -⟩ | ⟨r', rest', hcons, hstep⟩
  · rw [h] at hnil
    cases hnil
  · rw [h] at hcons
    cases hcons
    exact hstep

/-- A word that decodes is served by running its instruction. -/
theorem serveWord_of_decode {fmt : Format} {bs : List Byte} {i : Instr} (h : decode fmt bs = .ok i) (s : State) :
    serveWord fmt bs s = exec i s := by
  simp only [serveWord, h]

/-- Settles O6: the step serves the request at the head, whose word decodes. -/
theorem stepRunsDecodedInstruction : Obligations.StepRunsDecodedInstruction := by
  intro s fmt bs now rest i hinbox hdecode
  calc step s = serveWord fmt bs (s.taking ⟨.word fmt bs, now⟩ rest) := step_of_inbox_cons hinbox
    _ = exec i (s.serving now rest) := serveWord_of_decode hdecode _

/-! ## What an instruction other than a key operation does (R24) -/

/-- Handing over a response is what `Answers` says: the response, its events, and nothing else. -/
theorem answers_of_exec_eq_answer {i : Instr} {s : State} {r : Response} (h : exec i s = answer s r) : Answers i s r := h

/-- Every instruction but the three key operations completes by handing over some response. -/
theorem exec_eq_answer_of_not_mayWriteKey {i : Instr} (h : mayWriteKey i = false) (s : State) :
    ∃ r, exec i s = answer s r := by
  cases i with
  | keySetLiteral lit => cases h
  | keySetIndex idx => cases h
  | keyClear => cases h
  | _ => exact ⟨_, rfl⟩

/-- R24: only a key operation can write `KEY`. -/
theorem exec_key_of_not_mayWriteKey {i : Instr} {s t : State} (h : mayWriteKey i = false) (ht : exec i s = .next t) :
    t.key = s.key := by
  obtain ⟨r, hr⟩ := exec_eq_answer_of_not_mayWriteKey h s
  have hdeliver : Host.Outcome.next (s.deliver r) = .next t := hr.symm.trans ht
  cases hdeliver
  exact deliver_key s r

/-! ## Without a key (R122, R161) -/

/-- R161: without a key the plain layout is in force. -/
theorem layoutInForce_of_absent {key : KeyReg} (h : key.valid = false) : layoutInForce key = .F := by
  simp [layoutInForce, h]

/-- R117, R122: `ENCRYPT` fails closed. -/
theorem encryptOp_of_absent {key : KeyReg} (h : key.valid = false) (cfg : Config) (P : Frame) :
    encryptOp cfg key P = .error .noKey := by
  simp [encryptOp, h]

/-- R118, R122: `DECRYPT` fails closed. -/
theorem decryptOp_of_absent {key : KeyReg} (h : key.valid = false) (cfg : Config) (C : Frame) :
    decryptOp cfg key C = .error .noKey := by
  simp [decryptOp, h]

/-- R121: `SELFTEST` needs a key, and reports nothing without one. -/
theorem selftestResponse_of_absent {key : KeyReg} (h : key.valid = false) (cfg : Config) :
    selftestResponse cfg key = failed .noKey [] := by
  simp [selftestResponse, h, Response.raises, failed]

/-- The three operations that use the key's bytes return `NoKey` without one, and change nothing. -/
theorem cipherOps_answer_noKey {s : State} (h : s.key.valid = false) (B : Frame) :
    Answers (.encrypt B) s (failed .noKey []) ∧ Answers (.decrypt B) s (failed .noKey []) ∧
      Answers .selftest s (failed .noKey []) := by
  have hencrypt : exec (.encrypt B) s = answer s (frameResponse (encryptOp s.cfg s.key B)) := rfl
  have hdecrypt : exec (.decrypt B) s = answer s (frameResponse (decryptOp s.cfg s.key B)) := rfl
  have hselftest : exec .selftest s = answer s (selftestResponse s.cfg s.key) := rfl
  rw [encryptOp_of_absent h] at hencrypt
  rw [decryptOp_of_absent h] at hdecrypt
  rw [selftestResponse_of_absent h] at hselftest
  exact ⟨answers_of_exec_eq_answer hencrypt, answers_of_exec_eq_answer hdecrypt, answers_of_exec_eq_answer hselftest⟩

/-! ## Reset (R30, R231) -/

/-- The key register after reset is the canonical absent state for R8's default `KEY_SIZE` (log entry 2). -/
theorem reset_key : State.reset.key = KeyReg.absent .aes256 := rfl

/-- Settles O52: reset is one of the states with `KEY` absent, and what holds of all of them holds of it. -/
theorem resetLeavesKeyAbsent : Obligations.ResetLeavesKeyAbsent := by
  have habsent : State.reset.key.valid = false := by rw [reset_key]; rfl
  refine ⟨reset_key, rfl, rfl, layoutInForce_of_absent habsent, cipherOps_answer_noKey habsent, ?_⟩
  intro s hs
  exact ⟨layoutInForce_of_absent hs, fun _ _ => exec_key_of_not_mayWriteKey, cipherOps_answer_noKey hs⟩

end Sys2Proof.Machine
end

section
/-! SUPPORT. The state family (10_state.md): what an instruction and a step can do to the state, the legal values of `KEY`, and
what does not depend on `KEY`. -/

namespace Sys2Proof.Machine

/-! ## The legal values of `KEY` (R23) -/

/-- The canonical absent state is a legal value. -/
theorem absent_canonical (k : KeySize) : KeyReg.Canonical k (KeyReg.absent k) := by
  refine ⟨?_, fun hvalid => ?_, fun _ => ⟨rfl, rfl⟩⟩
  · simp [KeyReg.absent, zeros]
  · cases hvalid

/-- R110: padding a literal that fits gives a legal value. -/
theorem ofLiteral_canonical {k : KeySize} {lit : List Byte} (h : lit.length ≤ k.bytes) :
    KeyReg.Canonical k (KeyReg.ofLiteral k lit) := by
  refine ⟨?_, fun _ => rfl, fun habsent => ?_⟩
  · simp only [KeyReg.ofLiteral, zeros, List.length_append, List.length_replicate]
    omega
  · cases habsent

/-- Every register `KEY_SET_LITERAL` accepts is legal. -/
theorem literalKey_canonical {k : KeySize} {lit : List Byte} {key : KeyReg} (h : literalKey k lit = .ok key) :
    KeyReg.Canonical k key := by
  rcases literalKey_cases k lit with ⟨-, hfits, hok⟩ | ⟨-, herror⟩
  · cases hok.symm.trans h
    exact ofLiteral_canonical hfits
  · cases herror.symm.trans h

/-- R111: so is every register `KEY_SET_INDEX` accepts, a stored key being normalised like a literal. -/
theorem indexKey_canonical {cfg : Config} {idx : Byte} {key : KeyReg} (h : indexKey cfg idx = .ok key) :
    KeyReg.Canonical cfg.keySize key := by
  rcases indexKey_cases cfg idx with ⟨-, hliteral⟩ | ⟨-, herror⟩
  · exact literalKey_canonical (hliteral.symm.trans h)
  · cases herror.symm.trans h

/-! ## What an instruction can do (R24, R206) -/

/-- The three key operations complete by `writeKey`, and the register they would write is legal. -/
theorem exec_eq_writeKey_of_mayWriteKey {i : Instr} (h : mayWriteKey i = true) (s : State) :
    ∃ r, exec i s = writeKey s r ∧ ∀ key, r = .ok key → KeyReg.Canonical s.cfg.keySize key := by
  cases i with
  | keySetLiteral lit => exact ⟨literalKey s.cfg.keySize lit, rfl, fun _ => literalKey_canonical⟩
  | keySetIndex idx => exact ⟨indexKey s.cfg idx, rfl, fun _ => indexKey_canonical⟩
  | keyClear =>
    refine ⟨.ok (KeyReg.absent s.cfg.keySize), rfl, fun key hkey => ?_⟩
    cases hkey
    exact absent_canonical s.cfg.keySize
  | _ => cases h

/-- The two ways an instruction completes: a response handed over, or, by a key operation, a legal register written as well. -/
theorem exec_next {i : Instr} {s t : State} (h : exec i s = .next t) :
    (∃ r, t = s.deliver r) ∨
      (mayWriteKey i = true ∧ ∃ key r, KeyReg.Canonical s.cfg.keySize key ∧ t = State.deliver { s with key := key } r) := by
  cases hi : mayWriteKey i with
  | false =>
    obtain ⟨r, hr⟩ := exec_eq_answer_of_not_mayWriteKey hi s
    cases hr.symm.trans h
    exact .inl ⟨r, rfl⟩
  | true =>
    obtain ⟨r, hr, hcanonical⟩ := exec_eq_writeKey_of_mayWriteKey hi s
    rcases writeKey_cases s r with ⟨key, hok, hwrite⟩ | ⟨st, -, hraise⟩
    · cases (hr.trans hwrite).symm.trans h
      exact .inr ⟨rfl, key, _, hcanonical key hok, rfl⟩
    · cases (hr.trans hraise).symm.trans h
      exact .inl ⟨_, rfl⟩

/-- Settles O17: handing over a response touches neither `KEY` nor an input, and the key operations write `KEY` alone beside. -/
theorem onlyKeyOperationsWriteKey : Obligations.OnlyKeyOperationsWriteKey := by
  intro i s t h
  refine ⟨fun hi => exec_key_of_not_mayWriteKey hi h, ?_⟩
  rcases exec_next h with ⟨r, rfl⟩ | ⟨-, key, r, -, rfl⟩
  · exact ⟨rfl, rfl, rfl, rfl⟩
  · exact ⟨rfl, rfl, rfl, rfl⟩

/-! ## What a step can do (R21, R23, R52) -/

/-- From `s` the block may come to `t`: the configuration is as before, `KEY` is as before or in a legal value, and the history
has only grown. -/
structure State.Advances (s t : State) : Prop where
  cfg : t.cfg = s.cfg
  key : t.key = s.key ∨ KeyReg.Canonical s.cfg.keySize t.key
  log : s.log <+: t.log

theorem advances_refl (s : State) : s.Advances s := ⟨rfl, .inl rfl, List.prefix_rfl⟩

theorem State.Advances.trans {s t u : State} (hst : s.Advances t) (htu : t.Advances u) : s.Advances u where
  cfg := htu.cfg.trans hst.cfg
  key := by
    rcases htu.key with hsame | hcanonical
    · rw [hsame]
      exact hst.key
    · rw [hst.cfg] at hcanonical
      exact .inr hcanonical
  log := hst.log.trans htu.log

theorem advances_taking (s : State) (q : Request) (rest : List Request) : s.Advances (s.taking q rest) :=
  ⟨rfl, .inl rfl, List.prefix_rfl⟩

theorem advances_deliver (s : State) (r : Response) : s.Advances (s.deliver r) :=
  ⟨rfl, .inl rfl, List.prefix_append _ _⟩

theorem advances_noReply (s : State) : s.Advances s.noReply := ⟨rfl, .inl rfl, List.prefix_rfl⟩

theorem advances_registered (s : State) : s.Advances s.registered := ⟨rfl, .inl rfl, List.prefix_rfl⟩

theorem advances_powerUp (s : State) : s.Advances s.powerUp :=
  ⟨rfl, .inr (absent_canonical s.cfg.keySize), List.prefix_rfl⟩

theorem advances_writing {s : State} {key : KeyReg} (h : KeyReg.Canonical s.cfg.keySize key) :
    s.Advances { s with key := key } := ⟨rfl, .inr h, List.prefix_rfl⟩

theorem advances_reported (s : State) : s.Advances s.reported where
  cfg := reported_cfg s
  key := .inl (reported_key s)
  log := by
    rcases reported_log s with hsame | ⟨st, hreport⟩
    · rw [hsame]
    · rw [hreport]
      exact List.prefix_append _ _

/-- An instruction advances the block. -/
theorem exec_advances {i : Instr} {s t : State} (h : exec i s = .next t) : s.Advances t := by
  rcases exec_next h with ⟨r, rfl⟩ | ⟨-, key, r, hcanonical, rfl⟩
  · exact advances_deliver s r
  · exact (advances_writing hcanonical).trans (advances_deliver _ r)

/-- Serving a request advances the block. -/
theorem serve_advances {b : Body} {s t : State} (h : serve b s = .next t) : s.Advances t := by
  rcases serve_next h with ⟨i, hexec⟩ | ⟨i, u, hexec, rfl⟩ | rfl | rfl | rfl | rfl | rfl | rfl
  · exact exec_advances hexec
  · exact (exec_advances hexec).trans (advances_reported u)
  · exact advances_noReply s
  · exact advances_deliver s helpResponse
  · exact advances_deliver s (dateResponse s)
  · exact advances_deliver s surfaceError
  · exact advances_registered s
  · exact advances_powerUp s

/-- A step advances the block, whatever the request. -/
theorem step_advances {s t : State} (h : step s = .next t) : s.Advances t := by
  rcases step_cases s with ⟨-, hidle⟩ | ⟨q, rest, -, hserve⟩
  · cases hidle.symm.trans h
    exact advances_refl s
  · exact (advances_taking s q rest).trans (serve_advances (hserve.symm.trans h))

/-- Settles O19: a step keeps `KEY` or puts a legal value there, under the same `KEY_SIZE`. -/
theorem stepKeepsKeyCanonical : Obligations.StepKeepsKeyCanonical := by
  intro s t hs h
  have hadvances := step_advances h
  rw [hadvances.cfg]
  rcases hadvances.key with hsame | hcanonical
  · rwa [hsame]
  · exact hcanonical

/-- Settles O51. -/
theorem stepKeepsInputsAndHistory : Obligations.StepKeepsInputsAndHistory := by
  intro s t h
  obtain ⟨evs, hlog⟩ := (step_advances h).log
  exact ⟨(step_advances h).cfg, evs, hlog.symm⟩

/-! ## What does not depend on `KEY` (R113, R150) -/

/-- Two responses with the same status, value and route, and the same events but for the bytes of one frame sent. -/
structure Response.SameButSentBytes (r r' : Response) : Prop where
  status : r'.status = r.status
  value : r'.value = r.value
  route : r'.route = r.route
  events : r'.events = r.events ∨ ∃ V W : Frame, r.events = [.send V] ∧ r'.events = [.send W]

theorem sameButSentBytes_refl (r : Response) : r.SameButSentBytes r := ⟨rfl, rfl, rfl, .inl rfl⟩

theorem Response.SameButSentBytes.routed {r r' : Response} (h : r.SameButSentBytes r') (rt : Route) :
    (r.routed rt).SameButSentBytes (r'.routed rt) := ⟨h.status, h.value, rfl, h.events⟩

/-- `PING_RX` sees `KEY` only in the bytes of the response it sends. -/
theorem pingRx_sameButSentBytes (s : State) (k : KeyReg) (L : Layout) (B : Frame) (iv : Iv) :
    (pingRx s L B iv).SameButSentBytes (pingRx { s with key := k } L B iv) := by
  rcases pingRx_withKey s k L B iv with hsame | ⟨V, W, hV, hW⟩
  · rw [hsame]
    exact sameButSentBytes_refl _
  · rw [hV, hW]
    exact ⟨rfl, rfl, rfl, .inr ⟨V, W, rfl, rfl⟩⟩

/-- R150: a frame of protocol 3 goes to the Ping handler. -/
theorem dispatchFrame_of_ping {L : Layout} {B : Frame} (h : fldByte B L .protocol = 3#8) (s : State) (iv : Iv) :
    dispatchFrame s L B iv = routePing s L B iv := by
  simp [dispatchFrame, h, protoChat, protoPing]

/-- R150: no other route looks at `KEY`. -/
theorem dispatchFrame_withKey_of_not_ping {L : Layout} {B : Frame} (h : fldByte B L .protocol ≠ 3#8) (s : State) (k : KeyReg)
    (iv : Iv) : dispatchFrame { s with key := k } L B iv = dispatchFrame s L B iv := by
  simp only [dispatchFrame, if_neg h]
  rfl

/-- `DISPATCH` sees `KEY` only in the bytes of the response to a Ping. -/
theorem dispatchFrame_sameButSentBytes (s : State) (k : KeyReg) (L : Layout) (B : Frame) (iv : Iv) :
    (dispatchFrame s L B iv).SameButSentBytes (dispatchFrame { s with key := k } L B iv) := by
  by_cases hping : fldByte B L .protocol = 3#8
  · rw [dispatchFrame_of_ping hping, dispatchFrame_of_ping hping]
    exact (pingRx_sameButSentBytes s k L B iv).routed .ping
  · rw [dispatchFrame_withKey_of_not_ping hping s k iv]
    exact sameButSentBytes_refl _

/-- The Frame Codec and `CHAT_RX` compute their response from the operands and the configuration. -/
theorem codec_answers_withKey {L : Layout} {B : Frame} {iv : Iv} {src dst proto : Byte} {msg : List Byte} {i : Instr}
    (h : i ∈ [Instr.frameClear, .frameBuild L src dst proto msg iv, .frameValidate L B, .crcGen B, .crcCheck B, .chatRx L B])
    (s : State) (k : KeyReg) : ∃ r, Answers i s r ∧ Answers i { s with key := k } r := by
  simp only [List.mem_cons, List.not_mem_nil, or_false] at h
  rcases h with rfl | rfl | rfl | rfl | rfl | rfl
  · exact ⟨Response.returns (.frame emptyFrame) [], rfl, rfl⟩
  · exact ⟨frameResponse (buildFrame s.cfg L src dst proto msg iv), rfl, rfl⟩
  · exact ⟨statusResponse (validateFrame L B), rfl, rfl⟩
  · exact ⟨Response.returns (.frame (crcGenFrame s.cfg B)) [], rfl, rfl⟩
  · exact ⟨statusResponse (crcCheckFrame s.cfg B), rfl, rfl⟩
  · exact ⟨chatRx s.cfg L B, rfl, rfl⟩

/-- `DISPATCH` answers with the dispatcher's response. -/
theorem dispatch_answers (s : State) (L : Layout) (B : Frame) (iv : Iv) :
    Answers (.dispatch L B iv) s (dispatchFrame s L B iv) := rfl

/-- `PING_RX` answers with the Ping handler's response. -/
theorem pingRx_answers (s : State) (L : Layout) (B : Frame) (iv : Iv) : Answers (.pingRx L B iv) s (pingRx s L B iv) := rfl

/-- Settles O49: only the answer to a probe is made with `KEY`, and there only the bytes sent. -/
theorem keyInvisibleAboveTransform : Obligations.KeyInvisibleAboveTransform := by
  intro s k L B iv src dst proto msg i
  constructor
  · rintro (hcodec | ⟨rfl, hnotPing⟩)
    · exact codec_answers_withKey hcodec s k
    · refine ⟨dispatchFrame s L B iv, dispatch_answers s L B iv, ?_⟩
      rw [← dispatchFrame_withKey_of_not_ping hnotPing s k iv]
      exact dispatch_answers { s with key := k } L B iv
  · rintro (rfl | rfl)
    · obtain ⟨hstatus, hvalue, hroute, hevents⟩ := pingRx_sameButSentBytes s k L B iv
      exact ⟨_, _, pingRx_answers s L B iv, pingRx_answers _ L B iv, hstatus, hvalue, hroute, hevents⟩
    · obtain ⟨hstatus, hvalue, hroute, hevents⟩ := dispatchFrame_sameButSentBytes s k L B iv
      exact ⟨_, _, dispatch_answers s L B iv, dispatch_answers _ L B iv, hstatus, hvalue, hroute, hevents⟩

/-! ## The invariants at reset (R30, R231) -/

/-- Settles O18: `KEY` is in its canonical absent state, and nothing has been sent. -/
theorem invariantsHoldAtReset : Obligations.InvariantsHoldAtReset := by
  have hnone : sentFrames State.reset.log = [] := rfl
  refine ⟨absent_canonical State.reset.cfg.keySize, fun B hB => ?_, hnone⟩
  rw [hnone] at hB
  exact absurd hB List.not_mem_nil

end Sys2Proof.Machine
end

section
/-! SUPPORT. The encoding family (30_encoding.md): what the decoder reads is exactly what the encoder writes, every `protocol`
byte has one row, and the rows of the protocol-id map do what `DISPATCH` does. -/

namespace Sys2Proof

/-! ## The protocol-id map (R70, R83) -/

/-- The rows of the table do not overlap: a byte that meets a row's match and mask is of that row's class. -/
theorem classOf_of_rowMatches {c : ProtoClass} {p : Byte} (h : rowMatches c.pattern c.mask p = true) : classOf p = some c := by
  revert p
  cases c <;> decide

/-- A row of the full mask is one byte. -/
theorem eq_of_rowMatches_full {a p : Byte} (h : rowMatches a 0xFF#8 p = true) : p = a := by
  have hmask : p &&& 0xFF#8 = a := by simpa [rowMatches] using h
  rwa [show (0xFF#8 : Byte) = BitVec.allOnes 8 from rfl, BitVec.and_allOnes] at hmask

/-- A byte's class is the row that it matches, and no other. -/
theorem classOf_eq_some_iff {c : ProtoClass} {p : Byte} : classOf p = some c ↔ rowMatches c.pattern c.mask p = true :=
  ⟨rowMatches_of_classOf, classOf_of_rowMatches⟩

/-- The rows cover every byte. -/
theorem exists_classOf (p : Byte) : ∃ c, classOf p = some c := by
  have hall : ∀ q : Byte, (classOf q).isSome = true := by decide
  exact Option.isSome_iff_exists.1 (hall p)

/-- Settles O3: a row covers the byte, and the rows do not overlap. -/
theorem protocolByteHasOneRow : Obligations.ProtocolByteHasOneRow := by
  refine ⟨fun p => ?_, rfl, rfl, rfl, rfl⟩
  obtain ⟨c, hc⟩ := exists_classOf p
  refine ⟨c, hc, fun d => ?_⟩
  rw [← classOf_eq_some_iff, hc, Option.some.injEq, eq_comm]

/-- An instruction of the map is well formed when its frame is of its row. -/
@[simp] theorem wf_protoInstr (L : Layout) (c : ProtoClass) (B : Frame) (iv : Iv) :
    (protoInstr L c B iv).wf = inClass L c B := by
  cases L <;> cases c <;> rfl

/-- Every row of the map has the frame and the `iv` as its word, in the format of its layout. -/
@[simp] theorem encode_protoInstr (L : Layout) (c : ProtoClass) (B : Frame) (iv : Iv) :
    encode (protoInstr L c B iv) = ((protoRow L c).format, encodeProto B iv) := by
  cases L <;> cases c <;> rfl

/-- A word of format `PROTO_F` or `PROTO_S` decodes to an instruction exactly when it is that instruction's word, the frame being
of its row. -/
theorem decodeProto_eq_ok_iff {L : Layout} {bs : List Byte} {i : Instr} :
    decodeProto L bs = .ok i ↔ ∃ c B iv, i = protoInstr L c B iv ∧ inClass L c B = true ∧ bs = encodeProto B iv := by
  constructor
  · intro h
    unfold decodeProto at h
    split at h
    · cases h
    next B iv hframe =>
      split at h
      · cases h
      next c hclass =>
        cases h
        exact ⟨c, B, iv, rfl, rowMatches_of_classOf hclass, takeFrameIv_some hframe⟩
  · rintro ⟨c, B, iv, rfl, hclass, rfl⟩
    simp [decodeProto, encodeProto, classOf_of_rowMatches hclass]

/-! ## Taking operands, both ways (R81) -/

theorem takeByte_eq_some_iff {bs r : List Byte} {b : Byte} : takeByte bs = some (b, r) ↔ bs = b :: r :=
  ⟨takeByte_some, fun h => by rw [h]; rfl⟩

theorem takeLayout_eq_some_iff {bs r : List Byte} {L : Layout} : takeLayout bs = some (L, r) ↔ bs = encodeLayout L :: r :=
  ⟨takeLayout_some, fun h => by rw [h, takeLayout_encode]⟩

theorem splitLast_eq_some_iff {n : Nat} {bs m : List Byte} {B : Bytes n} : splitLast n bs = some (m, B) ↔ bs = m ++ B.list :=
  ⟨splitLast_some, fun h => by rw [h, splitLast_append]⟩

theorem takeFrameIv_eq_some_iff {bs : List Byte} {B : Frame} {iv : Iv} :
    takeFrameIv bs = some (B, iv) ↔ bs = B.list ++ iv.list :=
  ⟨takeFrameIv_some, fun h => by rw [h, takeFrameIv_append]⟩

theorem whole_takeBytes_eq_some_iff {n : Nat} {bs : List Byte} {B : Bytes n} :
    whole (takeBytes n bs) = some B ↔ bs = B.list :=
  ⟨fun h => by simpa using takeBytes_some (whole_some h), fun h => by rw [h, takeBytes_self, whole_nil]⟩

theorem whole_takeByte_eq_some_iff {bs : List Byte} {b : Byte} : whole (takeByte bs) = some b ↔ bs = [b] :=
  ⟨fun h => takeByte_some (whole_some h), fun h => by rw [h]; rfl⟩

/-- The last operand but the `iv` of `TELL` is one byte. -/
theorem splitLast_one_eq_some_iff {bs m : List Byte} {d : Bytes 1} : splitLast 1 bs = some (m, d) ↔ bs = m ++ [d.at 0] := by
  obtain ⟨l, hl⟩ := d
  obtain ⟨b, rfl⟩ := List.length_eq_one_iff.1 hl
  exact splitLast_eq_some_iff

theorem takeFrameBuild_eq_some_iff {bs : List Byte} {i : Instr} : takeFrameBuild bs = some i ↔
    ∃ L src dst proto msg iv, i = .frameBuild L src dst proto msg iv ∧
      bs = encodeLayout L :: src :: dst :: proto :: (msg ++ iv.list) := by
  simp only [takeFrameBuild, Option.bind_eq_bind, Option.bind_eq_some_iff, Option.pure_def, Option.some.injEq, Prod.exists,
    takeLayout_eq_some_iff, takeByte_eq_some_iff, splitLast_eq_some_iff]
  constructor
  · rintro ⟨L, _, rfl, src, _, rfl, dst, _, rfl, proto, _, rfl, msg, iv, rfl, rfl⟩
    exact ⟨L, src, dst, proto, msg, iv, rfl, rfl⟩
  · rintro ⟨L, src, dst, proto, msg, iv, rfl, rfl⟩
    exact ⟨L, _, rfl, src, _, rfl, dst, _, rfl, proto, _, rfl, msg, iv, rfl, rfl⟩

theorem takeTxFrame_eq_some_iff {bs : List Byte} {i : Instr} : takeTxFrame bs = some i ↔
    ∃ src dst proto msg iv, i = .txFrame src dst proto msg iv ∧ bs = src :: dst :: proto :: (msg ++ iv.list) := by
  simp only [takeTxFrame, Option.bind_eq_bind, Option.bind_eq_some_iff, Option.pure_def, Option.some.injEq, Prod.exists,
    takeByte_eq_some_iff, splitLast_eq_some_iff]
  constructor
  · rintro ⟨src, _, rfl, dst, _, rfl, proto, _, rfl, msg, iv, rfl, rfl⟩
    exact ⟨src, dst, proto, msg, iv, rfl, rfl⟩
  · rintro ⟨src, dst, proto, msg, iv, rfl, rfl⟩
    exact ⟨src, _, rfl, dst, _, rfl, proto, _, rfl, msg, iv, rfl, rfl⟩

theorem takeTell_eq_some_iff {bs : List Byte} {i : Instr} : takeTell bs = some i ↔
    ∃ msg dst iv, i = .tell msg dst iv ∧ bs = msg ++ dst :: iv.list := by
  simp only [takeTell, Option.bind_eq_bind, Option.bind_eq_some_iff, Option.pure_def, Option.some.injEq, Prod.exists,
    splitLast_eq_some_iff (n := ivtSize), splitLast_one_eq_some_iff]
  constructor
  · rintro ⟨_, iv, rfl, msg, d, rfl, rfl⟩
    exact ⟨msg, d.at 0, iv, rfl, by simp⟩
  · rintro ⟨msg, dst, iv, rfl, rfl⟩
    exact ⟨msg ++ [dst], iv, by simp, msg, ⟨[dst], rfl⟩, rfl, rfl⟩

/-! ## The operations (R80) -/

/-- A selector byte is known by its value. -/
theorem eq_ofNat_of_toNat_eq {sel : Byte} {n : Nat} (h : sel.toNat = n) : sel = BitVec.ofNat 8 n := by
  rw [← h, BitVec.ofNat_toNat, BitVec.setWidth_eq]

/-- Operands that are taken were put there by the encoder: one case per arm of `takeOperands`, `h_1` to `h_19` the selectors
0x00 to 0x12 in order. -/
theorem encode_of_takeOperands {sel : Byte} {bs : List Byte} {i : Instr} (h : takeOperands sel bs = some i) :
    encode i = (.op, sel :: bs) := by
  unfold takeOperands at h
  split at h
  case h_20 => cases h
  all_goals
    rename_i hsel
    obtain rfl := eq_ofNat_of_toNat_eq hsel
    simp only [Option.bind_eq_bind, Option.bind_eq_some_iff, Option.map_eq_some_iff, Option.pure_def, Option.some.injEq,
      Option.ite_none_right_eq_some, Prod.exists, takeFrameBuild_eq_some_iff, takeTxFrame_eq_some_iff, takeTell_eq_some_iff,
      takeLayout_eq_some_iff, takeFrameIv_eq_some_iff, takeByte_eq_some_iff, splitLast_eq_some_iff,
      whole_takeByte_eq_some_iff, whole_takeBytes_eq_some_iff] at h
  case h_1 | h_8 | h_11 => obtain ⟨rfl, rfl⟩ := h; rfl
  case h_2 => obtain ⟨L, src, dst, proto, msg, iv, rfl, rfl⟩ := h; rfl
  case h_3 | h_13 => obtain ⟨L, _, rfl, B, rfl, rfl⟩ := h; rfl
  case h_4 | h_5 | h_9 | h_10 => obtain ⟨B, rfl, rfl⟩ := h; rfl
  case h_6 => obtain rfl := h; rfl
  case h_7 => obtain ⟨idx, rfl, rfl⟩ := h; rfl
  case h_12 | h_14 => obtain ⟨L, _, rfl, B, iv, rfl, rfl⟩ := h; rfl
  case h_15 => obtain ⟨W, iv, rfl, rfl⟩ := h; rfl
  case h_16 => obtain ⟨src, dst, proto, msg, iv, rfl, rfl⟩ := h; rfl
  case h_17 => obtain ⟨msg, iv, rfl, rfl⟩ := h; rfl
  case h_18 => obtain ⟨msg, dst, iv, rfl, rfl⟩ := h; rfl
  case h_19 => obtain ⟨target, _, rfl, iv, rfl, rfl⟩ := h; rfl

/-- What the encoder puts is taken: one case per operation; the words of the map's rows are of the other formats. -/
theorem takeOperands_of_encode {sel : Byte} {bs : List Byte} {i : Instr} (h : encode i = (.op, sel :: bs)) :
    takeOperands sel bs = some i := by
  cases i
  all_goals cases h
  case frameClear | keySetLiteral | keySetIndex | keyClear | selftest => rfl
  case frameBuild L src dst proto msg iv => exact takeFrameBuild_eq_some_iff.2 ⟨L, src, dst, proto, msg, iv, rfl, rfl⟩
  case txFrame src dst proto msg iv => exact takeTxFrame_eq_some_iff.2 ⟨src, dst, proto, msg, iv, rfl, rfl⟩
  case tell msg dst iv => exact takeTell_eq_some_iff.2 ⟨msg, dst, iv, rfl, rfl⟩
  case pingSend target iv => simp [takeOperands, takeByte]
  case frameValidate | crcGen | crcCheck | encrypt | decrypt | dispatch | chatRx | pingRx | rxFrame | shout => simp [takeOperands]

/-- A word of format `OP` begins with an assigned selector. -/
theorem exists_selector_of_encode {ws : List Byte} {i : Instr} (h : encode i = (.op, ws)) :
    ∃ sel bs, ws = sel :: bs ∧ sel.toNat < firstUnassigned := by
  cases i
  all_goals cases h
  all_goals exact ⟨_, _, rfl, by decide⟩

/-- R82: a selector from 0x13 on is refused by name, whatever follows it. -/
theorem decodeOp_of_unassigned {sel : Byte} (h : firstUnassigned ≤ sel.toNat) (bs : List Byte) :
    decodeOp (sel :: bs) = .error (.unassignedSelector sel) := by
  simp only [decodeOp, if_pos h]

/-- With an assigned selector the operands decide. -/
theorem decodeOp_eq_ok_iff_takeOperands {sel : Byte} (h : sel.toNat < firstUnassigned) {bs : List Byte} {i : Instr} :
    decodeOp (sel :: bs) = .ok i ↔ takeOperands sel bs = some i := by
  simp only [decodeOp, if_neg (Nat.not_le_of_lt h)]
  cases takeOperands sel bs <;> simp

/-- A word of format `OP` decodes to an instruction exactly when it is that instruction's word. -/
theorem decodeOp_eq_ok_iff {ws : List Byte} {i : Instr} : decodeOp ws = .ok i ↔ encode i = (.op, ws) := by
  constructor
  · intro h
    cases ws with
    | nil => cases h
    | cons sel bs =>
      rcases Nat.lt_or_ge sel.toNat firstUnassigned with hassigned | hunassigned
      · exact encode_of_takeOperands ((decodeOp_eq_ok_iff_takeOperands hassigned).1 h)
      · cases (decodeOp_of_unassigned hunassigned bs).symm.trans h
  · intro h
    obtain ⟨sel, bs, rfl, hassigned⟩ := exists_selector_of_encode h
    exact (decodeOp_eq_ok_iff_takeOperands hassigned).2 (takeOperands_of_encode h)

/-! ## The decoder and the encoder (R80, R81, R83) -/

/-- Every instruction is an operation, well formed by its type, or of a row of the protocol-id map. -/
theorem operation_or_protoInstr (i : Instr) :
    (i.WellFormed ∧ ∃ ws, encode i = (.op, ws)) ∨ ∃ L c B iv, i = protoInstr L c B iv := by
  cases i with
  | protoReservedF B iv => exact .inr ⟨.F, .reserved, B, iv, rfl⟩
  | protoTimeF B iv => exact .inr ⟨.F, .time, B, iv, rfl⟩
  | protoChatF B iv => exact .inr ⟨.F, .chat, B, iv, rfl⟩
  | protoPingF B iv => exact .inr ⟨.F, .ping, B, iv, rfl⟩
  | protoUnrecognized04F B iv => exact .inr ⟨.F, .unrecognized04, B, iv, rfl⟩
  | protoUnrecognized08F B iv => exact .inr ⟨.F, .unrecognized08, B, iv, rfl⟩
  | protoUnrecognized10F B iv => exact .inr ⟨.F, .unrecognized10, B, iv, rfl⟩
  | protoUnrecognized20F B iv => exact .inr ⟨.F, .unrecognized20, B, iv, rfl⟩
  | protoUnrecognized40F B iv => exact .inr ⟨.F, .unrecognized40, B, iv, rfl⟩
  | protoUnrecognized80F B iv => exact .inr ⟨.F, .unrecognized80, B, iv, rfl⟩
  | protoReservedS B iv => exact .inr ⟨.S, .reserved, B, iv, rfl⟩
  | protoTimeS B iv => exact .inr ⟨.S, .time, B, iv, rfl⟩
  | protoChatS B iv => exact .inr ⟨.S, .chat, B, iv, rfl⟩
  | protoPingS B iv => exact .inr ⟨.S, .ping, B, iv, rfl⟩
  | protoUnrecognized04S B iv => exact .inr ⟨.S, .unrecognized04, B, iv, rfl⟩
  | protoUnrecognized08S B iv => exact .inr ⟨.S, .unrecognized08, B, iv, rfl⟩
  | protoUnrecognized10S B iv => exact .inr ⟨.S, .unrecognized10, B, iv, rfl⟩
  | protoUnrecognized20S B iv => exact .inr ⟨.S, .unrecognized20, B, iv, rfl⟩
  | protoUnrecognized40S B iv => exact .inr ⟨.S, .unrecognized40, B, iv, rfl⟩
  | protoUnrecognized80S B iv => exact .inr ⟨.S, .unrecognized80, B, iv, rfl⟩
  | _ => exact .inl ⟨rfl, _, rfl⟩

/-- The format of a row of the map is its layout's. -/
theorem decode_protoRow (L : Layout) (c : ProtoClass) (bs : List Byte) :
    decode (protoRow L c).format bs = decodeProto L bs := by
  cases L <;> rfl

/-- Settles O1: each of the two kinds of word decodes to what it encodes. -/
theorem decodeEncodeRoundTrip : Obligations.DecodeEncodeRoundTrip := by
  intro i hwf
  rcases operation_or_protoInstr i with ⟨-, ws, hencode⟩ | ⟨L, c, B, iv, rfl⟩
  · rw [hencode]
    exact decodeOp_eq_ok_iff.2 hencode
  · rw [Instr.WellFormed, wf_protoInstr] at hwf
    rw [encode_protoInstr, decode_protoRow]
    exact decodeProto_eq_ok_iff.2 ⟨c, B, iv, rfl, hwf, rfl⟩

/-- In the format of a row of the map, what decodes was encoded. -/
theorem encode_of_decode_protoRow {L : Layout} {c : ProtoClass} {bs : List Byte} {i : Instr}
    (h : decode (protoRow L c).format bs = .ok i) : i.WellFormed ∧ encode i = ((protoRow L c).format, bs) := by
  rw [decode_protoRow] at h
  obtain ⟨d, B, iv, rfl, hclass, rfl⟩ := decodeProto_eq_ok_iff.1 h
  exact ⟨(wf_protoInstr L d B iv).trans hclass, encode_protoInstr L d B iv⟩

/-- An instruction whose word is of format `OP` is well formed. -/
theorem wellFormed_of_encode_op {ws : List Byte} {i : Instr} (h : encode i = (.op, ws)) : i.WellFormed := by
  rcases operation_or_protoInstr i with ⟨hwf, -⟩ | ⟨L, c, B, iv, rfl⟩
  · exact hwf
  · rw [encode_protoInstr] at h
    cases L <;> cases h

/-- Settles O2: in each format, what decodes was encoded. -/
theorem decodedWordIsItsEncoding : Obligations.DecodedWordIsItsEncoding := by
  intro fmt bs i h
  cases fmt with
  | op =>
    have hencode : encode i = (.op, bs) := decodeOp_eq_ok_iff.1 h
    exact ⟨wellFormed_of_encode_op hencode, hencode⟩
  | protoF => exact encode_of_decode_protoRow (L := .F) (c := .reserved) h
  | protoS => exact encode_of_decode_protoRow (L := .S) (c := .reserved) h

/-- Settles O4: each word is the encoding of its instruction, operand by operand. -/
theorem writtenWordsDecode : Obligations.WrittenWordsDecode :=
  ⟨decodeEncodeRoundTrip .frameClear rfl, decodeEncodeRoundTrip (.keySetIndex 0x02#8) rfl,
    decodeEncodeRoundTrip .keyClear rfl, decodeEncodeRoundTrip (.keySetLiteral [0x6B#8, 0x65#8, 0x79#8]) rfl,
    fun iv => decodeEncodeRoundTrip (.tell [0x68#8, 0x69#8] 0x0B#8 iv) rfl,
    fun iv => decodeEncodeRoundTrip (.pingSend 0x0A#8 iv) rfl⟩

end Sys2Proof

namespace Sys2Proof.Machine

/-! ## Refused selectors (R82) -/

/-- A word that stands for no instruction is refused, by the decoder's reason. -/
theorem serveWord_of_decode_error {fmt : Format} {bs : List Byte} {e : DecodeError} (h : decode fmt bs = .error e) (s : State) :
    serveWord fmt bs s = .refused (.undecodable e) := by
  simp only [serveWord, h]

/-- Settles O5: the decoder refuses the word, and the step passes its refusal on. -/
theorem unassignedSelectorRefused : Obligations.UnassignedSelectorRefused := by
  intro s sel bs now rest hsel _ hinbox
  have hdecode : decode .op (sel :: bs) = .error (.unassignedSelector sel) := decodeOp_of_unassigned hsel bs
  calc step s = serveWord .op (sel :: bs) (s.taking ⟨.word .op (sel :: bs), now⟩ rest) := step_of_inbox_cons hinbox
    _ = .refused (.undecodable (.unassignedSelector sel)) := serveWord_of_decode_error hdecode _

/-! ## The rows of the map and the dispatcher (R70, R83, R150) -/

/-- What the dispatcher does with a frame of a class. -/
def classResponse (c : ProtoClass) (s : State) (L : Layout) (B : Frame) (iv : Iv) : Response :=
  match c with
  | .chat => routeChat s L B
  | .ping => routePing s L B iv
  | .time => routeTime
  | _ => routeDropped

/-- An instruction of the map answers with its class's response. -/
theorem protoInstr_answers (s : State) (L : Layout) (c : ProtoClass) (B : Frame) (iv : Iv) :
    Answers (protoInstr L c B iv) s (classResponse c s L B iv) := by
  cases L <;> cases c <;> rfl

/-- The opcode byte of R83 is the field `protocol` of R66. -/
theorem protocolByte_eq (L : Layout) (B : Frame) : protocolByte L B = fldByte B L .protocol := by
  cases L <;> rfl

/-- `DISPATCH` of a frame of a class makes that class's response. -/
theorem dispatchFrame_of_inClass {L : Layout} {c : ProtoClass} {B : Frame} (h : inClass L c B = true) (s : State) (iv : Iv) :
    dispatchFrame s L B iv = classResponse c s L B iv := by
  have hrow : rowMatches c.pattern c.mask (fldByte B L .protocol) = true := by
    rw [← protocolByte_eq]
    exact h
  have hclass : classOf (fldByte B L .protocol) = some c := classOf_of_rowMatches hrow
  rcases dispatchFrame_cases s L B iv with ⟨hp, e⟩ | ⟨hp, e⟩ | ⟨hp, e⟩ | ⟨hchat, hping, htime, e⟩
  · cases (hp ▸ hclass : classOf 2#8 = some c)
    exact e
  · cases (hp ▸ hclass : classOf 3#8 = some c)
    exact e
  · cases (hp ▸ hclass : classOf 1#8 = some c)
    exact e
  · rw [e]
    cases c with
    | time => exact absurd (eq_of_rowMatches_full hrow) htime
    | chat => exact absurd (eq_of_rowMatches_full hrow) hchat
    | ping => exact absurd (eq_of_rowMatches_full hrow) hping
    | _ => rfl

/-- Settles O29: both sides answer with the response of the frame's class. -/
theorem protocolRowsAgreeWithDispatch : Obligations.ProtocolRowsAgreeWithDispatch := by
  intro s L c B iv hwf
  have hclass : inClass L c B = true := (wf_protoInstr L c B iv).symm.trans hwf
  have hdispatch := dispatch_answers s L B iv
  rw [dispatchFrame_of_inClass hclass] at hdispatch
  exact (protoInstr_answers s L c B iv).trans hdispatch.symm

/-- Settles O30: the response of these classes is fixed. -/
theorem reservedAndTimeRowsHaveNoEffect : Obligations.ReservedAndTimeRowsHaveNoEffect := by
  intro s B iv
  have row (L : Layout) (c : ProtoClass) := protoInstr_answers s L c B iv
  refine ⟨?_, row .F .time, row .S .time⟩
  simp only [List.forall_mem_cons]
  exact ⟨row .F .reserved, row .F .unrecognized04, row .F .unrecognized08, row .F .unrecognized10, row .F .unrecognized20,
    row .F .unrecognized40, row .F .unrecognized80, row .S .reserved, row .S .unrecognized04, row .S .unrecognized08,
    row .S .unrecognized10, row .S .unrecognized20, row .S .unrecognized40, row .S .unrecognized80, List.forall_mem_nil _⟩

/-! ## The Chat rows (R153, R154) -/

/-- R154: the terminator put after the first `n` payload bytes ends the text and is not of it. -/
theorem chatText_eq_textOf (L : Layout) (B : Frame) (n : Nat) : chatText L B n = textOf L B n := by
  simp only [chatText, textOf, memRead, List.takeWhile_append]
  split
  next hall => simpa using ((List.takeWhile_prefix _).eq_of_length hall).symm
  next => rfl

theorem chatClass_direct (a : Byte) : chatClass a a = some .direct := by simp [chatClass]

theorem chatClass_broadcast {a : Byte} (h : broadcast ≠ a) : chatClass a broadcast = some .broadcast := by
  simp [chatClass, h]

/-- The response to a Chat frame rendered under a class. -/
def chatRendered (L : Layout) (B : Frame) (cls : ChatClass) : Response :=
  ⟨.ok, some .chat, .chat cls (fldByte B L .source) (textOf L B (fldByte B L .length).toNat),
    [.chatRender cls (fldByte B L .source) (textOf L B (fldByte B L .length).toNat)]⟩

/-- A Chat frame of consistent length that is for this node is rendered. -/
theorem chatRow_answers {s : State} {L : Layout} {B : Frame} {cls : ChatClass} (hlen : (fldByte B L .length).toNat ≤ cap L)
    (hcls : chatClass s.cfg.nodeAddr (fldByte B L .destination) = some cls) (iv : Iv) :
    Answers (protoInstr L .chat B iv) s (chatRendered L B cls) := by
  have hrender : routeChat s L B = chatRendered L B cls := by
    rw [routeChat]
    rcases chatRx_cases s.cfg L B with ⟨hlong, -⟩ | ⟨-, hnone, -⟩ | ⟨cls', -, hsome, e⟩
    · exact absurd hlen (Nat.not_le_of_lt hlong)
    · cases hnone.symm.trans hcls
    · cases hsome.symm.trans hcls
      rw [e, chatText_eq_textOf]
      rfl
  have hrow : Answers (protoInstr L .chat B iv) s (routeChat s L B) := protoInstr_answers s L .chat B iv
  rwa [hrender] at hrow

/-- Both addressings of a Chat frame for this node. -/
theorem chatRow_renders {s : State} {L : Layout} {B : Frame} (hlen : (fldByte B L .length).toNat ≤ cap L) (iv : Iv) :
    (fldByte B L .destination = s.cfg.nodeAddr → Answers (protoInstr L .chat B iv) s (chatRendered L B .direct)) ∧
      (fldByte B L .destination ≠ s.cfg.nodeAddr → fldByte B L .destination = broadcast →
        Answers (protoInstr L .chat B iv) s (chatRendered L B .broadcast)) := by
  constructor
  · intro hdst
    exact chatRow_answers hlen (hdst ▸ chatClass_direct _) iv
  · intro hother hdst
    rw [hdst] at hother
    exact chatRow_answers hlen (hdst ▸ chatClass_broadcast hother) iv

/-- Settles O32: the two rows at the capacities and field offsets of their layouts. -/
theorem chatRowsRender : Obligations.ChatRowsRender :=
  fun _ _ iv => ⟨fun hlen => chatRow_renders (L := .F) hlen iv, fun hlen => chatRow_renders (L := .S) hlen iv⟩

/-! ## The packet of a response (R174) -/

/-- The response carries `timestamp_out` and `origin` as received, and `NOW` between them. -/
theorem responsePacket_eq (s : State) (L : Layout) (B : Frame) :
    responsePacket s L B = memRead B (off L .payload) 5 ++ timePack s.now ++ [B.at (off L .payload + 10)] := by
  have hout : (memRead B (off L .payload) 5).length = 5 := memRead_length B (by cases L <;> decide)
  have hpacket : (pingPacket L B).length = 11 := memRead_length B (by cases L <;> decide)
  apply ext_byteAt (by simp [responsePacket_length, hout])
  intro i hi
  rw [responsePacket_length] at hi
  rw [responsePacket, byteAt_overlay, byteAt_append, byteAt_append, List.length_append, hout, hpacket, timePack_length]
  rcases Nat.lt_trichotomy i 10 with hstamp | rfl | hpast
  · rw [if_pos hstamp]
    by_cases hfive : i < 5
    · rw [if_neg (by omega), if_pos hfive, pingPacket, byteAt_memRead, byteAt_memRead, if_pos hi, if_pos hfive]
    · rw [if_pos (by omega), if_neg hfive]
  · rw [if_neg (by omega), if_neg (by omega), pingPacket, byteAt_memRead, if_pos hi, byteAt_cons_zero]
  · exact absurd hi (Nat.not_lt_of_le hpast)

/-- The response is one `TX_FRAME` of that packet to `origin`. -/
theorem pingRespond_sends (s : State) (L : Layout) (B : Frame) (iv : Iv) : ∃ W : Frame,
    Answers (.txFrame s.cfg.nodeAddr (B.at (off L .payload + 10)) 3#8
      (memRead B (off L .payload) 5 ++ timePack s.now ++ [B.at (off L .payload + 10)]) iv) s (okay .none [.send W]) ∧
    pingRespond s L B iv = [.send W] := by
  rw [← responsePacket_eq]
  refine ⟨_, ?_, pingRespond_eq s L B iv⟩
  have htx : exec (.txFrame s.cfg.nodeAddr (B.at (off L .payload + 10)) 3#8 (responsePacket s L B) iv) s =
      answer s (transmit s s.cfg.nodeAddr (pingOrigin L B) protoPing (responsePacket s L B) iv) := rfl
  rcases transmit_cases s s.cfg.nodeAddr (pingOrigin L B) protoPing (responsePacket s L B) iv with ⟨-, e⟩ | ⟨hlong, -⟩
  · rw [e] at htx
    exact answers_of_exec_eq_answer htx
  · rw [responsePacket_length] at hlong
    exact absurd (pingPacketSize_le_cap _) (Nat.not_le_of_lt hlong)

/-! ## The report (R175, R178) -/

/-- R178's division is Lean's division truncating toward zero. -/
theorem tdiv_eq (a : Int) (b : Nat) : tdiv a b = Int.tdiv a b := by
  cases a with
  | ofNat n =>
    cases n with
    | zero => simp [tdiv]
    | succ n => exact Int.one_mul _
  | negSucc n => exact Int.neg_one_mul _

theorem rttMs_eq_latency (out back : TimeValue) : rttMs out back = latency out back := by
  rw [rttMs, latency, tdiv_eq]
  rfl

/-- R68: a stamp unpacked from the payload is the one in its five bytes. -/
theorem timeUnpack_memRead (L : Layout) (B : Frame) (o : Nat) :
    timeUnpack (memRead B (off L .payload + o) 5) = stampAt L B o := by
  simp [timeUnpack, le32, stampAt, byteAt_memRead, Nat.add_assoc]

/-- The report is the latency of the packet's two stamps. -/
theorem pingReport_eq (L : Layout) (B : Frame) :
    pingReport L B = [.pingReport (latency (stampAt L B 0) (stampAt L B 5))] := by
  have hout : pingOut (pingPacket L B) = stampAt L B 0 := by
    rw [pingOut, pingPacket, memRead_take B _ _ _ (by decide)]
    exact timeUnpack_memRead L B 0
  have hback : pingBack (pingPacket L B) = stampAt L B 5 := by
    rw [pingBack, pingPacket, memRead_drop, memRead_take B _ _ _ (by decide)]
    exact timeUnpack_memRead L B 5
  rw [pingReport, rttMs_eq_latency, hout, hback]

/-! ## The Ping rows (R155) -/

/-- A frame to this node that another originated is a probe. -/
theorem pingClass_probeToUs {a origin : Byte} (h : origin ≠ a) (src : Byte) : pingClass a a src origin = some .probeToUs := by
  simp [pingClass, h]

/-- A frame to this node with this node's own `origin` is the response to its probe. -/
theorem pingClass_ownResponse (a src : Byte) : pingClass a a src a = some .ownResponse := by simp [pingClass]

/-- What a Ping frame of a class emits. -/
def pingEvents (cls : PingClass) (s : State) (L : Layout) (B : Frame) (iv : Iv) : List Event :=
  match cls with
  | .probeToUs => pingRespond s L B iv
  | .ownResponse => pingReport L B

/-- `PING_RX` of a well-sized frame does what its class says. -/
theorem pingRx_of_pingClass {s : State} {L : Layout} {B : Frame} {cls : PingClass} (hmin : 11 ≤ (fldByte B L .length).toNat)
    (hmax : (fldByte B L .length).toNat ≤ cap L)
    (hcls : pingClass s.cfg.nodeAddr (fldByte B L .destination) (fldByte B L .source) (pingOrigin L B) = some cls) (iv : Iv) :
    pingRx s L B iv = Response.returns (.ping cls)
      (pingEvents cls s L B iv) := by
  rcases pingRx_cases s L B iv with ⟨hbad, -⟩ | ⟨-, ⟨hnone, -⟩ | ⟨hprobe, e⟩ | ⟨hown, e⟩⟩
  · omega
  · cases hnone.symm.trans hcls
  · cases hprobe.symm.trans hcls
    exact e
  · cases hown.symm.trans hcls
    exact e

/-- Settles O35: a Ping row answers with the routed response of the Ping handler. -/
theorem pingRowsAnswerAndReport : Obligations.PingRowsAnswerAndReport := by
  intro s L i B iv hrow hmin hmax hdst
  have hi : Answers i s (routePing s L B iv) := by
    rcases hrow with ⟨rfl, rfl⟩ | ⟨rfl, rfl⟩
    · exact protoInstr_answers s .F .ping B iv
    · exact protoInstr_answers s .S .ping B iv
  rw [routePing] at hi
  constructor
  · intro horigin
    have hcls : pingClass s.cfg.nodeAddr (fldByte B L .destination) (fldByte B L .source) (pingOrigin L B) =
        some .probeToUs := by rw [hdst]; exact pingClass_probeToUs horigin _
    obtain ⟨W, htx, hsend⟩ := pingRespond_sends s L B iv
    rw [pingRx_of_pingClass hmin hmax hcls, pingEvents, hsend] at hi
    exact ⟨W, htx, hi⟩
  · intro horigin
    have hcls : pingClass s.cfg.nodeAddr (fldByte B L .destination) (fldByte B L .source) (pingOrigin L B) =
        some .ownResponse := by rw [hdst, pingOrigin, horigin, pingClass_ownResponse]
    rw [pingRx_of_pingClass hmin hmax hcls, pingEvents, pingReport_eq] at hi
    exact hi

end Sys2Proof.Machine
end

section
/-! SUPPORT. The frame codec family (40_frame_codec_crc.md): every field of a built frame, the trailer, the parameter sets of the
CRC, and `MAGIC` at the head of every frame sent. -/

namespace Sys2Proof.Machine

/-! ## The fields of a built frame (R66, R91) -/

/-- R60, R63: under both layouts `protocol`, `length` and `payload` lie past the addresses. -/
theorem addresses_before_fields (L : Layout) : 4 ≤ off L .protocol ∧ 4 ≤ off L .length ∧ 4 ≤ off L .payload := by
  cases L <;> decide

/-- R60, R63: under both layouts the header fields, `ivt` among them, lie before the padding. -/
theorem header_before_padding (L : Layout) :
    6 ≤ off L .padding ∧ off L .protocol < off L .padding ∧ off L .length < off L .padding ∧
      (L = .S → 20 ≤ off L .padding) := by
  cases L <;> decide

/-- R60, R63: the padding ends where the payload begins, and the payload where the trailer begins. -/
theorem padding_payload_adjacent (L : Layout) :
    off L .padding + fieldSize L .padding = off L .payload ∧ off L .payload + cap L = 208 := by
  cases L <;> decide

/-- The value of the one-byte `length` field of a message that fits. -/
theorem toNat_ofNat_of_le_cap {L : Layout} {n : Nat} (h : n ≤ cap L) : (BitVec.ofNat 8 n).toNat = n := by
  rw [BitVec.toNat_ofNat, Nat.mod_eq_of_lt]
  cases L <;> simp only [cap] at h <;> omega

section
variable (cfg : Config) (L : Layout) (src dst proto : Byte) (msg : List Byte) (iv : Iv)

/-- R91: a built frame starts with `MAGIC`. -/
theorem memRead_shapeFrame_magic : memRead (shapeFrame cfg L src dst proto msg iv) 0 2 = cfg.magic.list := by
  obtain ⟨hprotocol, hlength, hpayload⟩ := addresses_before_fields L
  apply ext_byteAt (by rw [memRead_length _ (by decide), cfg.magic.len])
  intro i hi
  rw [memRead_length _ (by decide)] at hi
  rw [byteAt_memRead, if_pos hi, Nat.zero_add, at_shapeFrame, if_neg (by omega), if_neg (by omega), if_neg (by omega),
    if_neg (fun hivt => by omega), if_neg (by omega), if_neg (by omega)]

theorem at_shapeFrame_source : (shapeFrame cfg L src dst proto msg iv).at 2 = src := by
  cases L <;> simp [at_shapeFrame, off]

theorem at_shapeFrame_destination : (shapeFrame cfg L src dst proto msg iv).at 3 = dst := by
  cases L <;> simp [at_shapeFrame, off]

theorem fldByte_shapeFrame_protocol : fldByte (shapeFrame cfg L src dst proto msg iv) L .protocol = proto := by
  cases L <;> simp [fldByte, at_shapeFrame, off]

theorem fldByte_shapeFrame_length :
    fldByte (shapeFrame cfg L src dst proto msg iv) L .length = BitVec.ofNat 8 msg.length := by
  cases L <;> simp [fldByte, at_shapeFrame, off]

/-- R63: layout S carries the `iv` whole. -/
theorem memRead_shapeFrame_ivt : memRead (shapeFrame cfg .S src dst proto msg iv) 4 16 = iv.list := by
  apply ext_byteAt (by rw [memRead_length _ (by decide), iv.len])
  intro i hi
  rw [memRead_length _ (by decide)] at hi
  have hbefore : i + 4 < off .S .protocol ∧ i + 4 < off .S .length ∧ i + 4 < off .S .payload := by
    simp only [off]
    omega
  obtain ⟨hprotocol, hlength, hpayload⟩ := hbefore
  rw [byteAt_memRead, if_pos hi, at_shapeFrame, if_neg (by omega), if_neg (by omega), if_neg (by omega),
    if_pos ⟨rfl, by omega, by omega⟩, Nat.add_sub_cancel_left]

/-- R91: the payload begins with the message. -/
theorem memRead_shapeFrame_payload (h : msg.length ≤ cap L) :
    memRead (shapeFrame cfg L src dst proto msg iv) (off L .payload) msg.length = msg := by
  have hend := (padding_payload_adjacent L).2
  have hframe : off L .payload + msg.length ≤ frameSize := Nat.le_trans (by omega) (by decide : 208 ≤ frameSize)
  exact memRead_memWrite _ rfl hframe

/-- R91: from the padding on, every byte outside the message is zero: the padding, the payload's tail and the trailer. -/
theorem at_shapeFrame_of_unwritten {i : Nat} (hpad : off L .padding ≤ i)
    (hmsg : i < off L .payload ∨ off L .payload + msg.length ≤ i) : (shapeFrame cfg L src dst proto msg iv).at i = 0#8 := by
  obtain ⟨hfront, hprotocol, hlength, hivt⟩ := header_before_padding L
  have hmagic : byteAt cfg.magic.list i = 0#8 := byteAt_of_le (by rw [cfg.magic.len]; omega)
  rw [at_shapeFrame, if_neg (by omega), if_neg (by omega), if_neg (by omega),
    if_neg (fun ⟨hS, _, hi⟩ => by have := hivt hS; omega), if_neg (by omega), if_neg (by omega), hmagic]

end

/-- `FRAME_BUILD` answers with the built frame, or with the status raised. -/
theorem frameBuild_answers (s : State) (L : Layout) (src dst proto : Byte) (msg : List Byte) (iv : Iv) :
    Answers (.frameBuild L src dst proto msg iv) s (frameResponse (buildFrame s.cfg L src dst proto msg iv)) := rfl

/-- Settles O8: the frame is `shapeFrame`'s; its padding, payload tail and trailer are what no field writes. -/
theorem frameBuildLaysOutFields : Obligations.FrameBuildLaysOutFields := by
  intro s L src dst proto msg iv
  have hanswers := frameBuild_answers s L src dst proto msg iv
  obtain ⟨hpadding, hpayload⟩ := padding_payload_adjacent L
  rcases buildFrame_cases s.cfg L src dst proto msg iv with ⟨hfits, hbuild⟩ | ⟨hlong, hbuild⟩
  · rw [hbuild] at hanswers
    refine ⟨fun _ => ⟨_, hanswers, memRead_shapeFrame_magic .., at_shapeFrame_source .., at_shapeFrame_destination .., ?_,
      fldByte_shapeFrame_protocol .., ?_, memRead_shapeFrame_payload (h := hfits) .., ?_, ?_, ?_⟩,
      fun hlong => absurd hfits (Nat.not_le_of_lt hlong)⟩
    case refine_1 =>
      rintro rfl
      exact memRead_shapeFrame_ivt ..
    case refine_2 => rw [fldByte_shapeFrame_length, toNat_ofNat_of_le_cap hfits]
    case refine_3 => exact fun k hk => at_shapeFrame_of_unwritten (hpad := by omega) (hmsg := by omega) ..
    case refine_4 => exact fun k hk hcap => at_shapeFrame_of_unwritten (hpad := by omega) (hmsg := by omega) ..
    case refine_5 => exact fun k hk => at_shapeFrame_of_unwritten (hpad := by omega) (hmsg := by omega) ..
  · rw [hbuild] at hanswers
    exact ⟨fun hfits => absurd hlong (Nat.not_lt_of_le hfits), fun _ => hanswers⟩

/-! ## The empty frame and the length check (R90, R92) -/

/-- Settles O7. -/
theorem frameClearGivesEmptyFrame : Obligations.FrameClearGivesEmptyFrame :=
  fun _ => ⟨emptyFrame, rfl, fun k _ => byteAt_zeros frameSize k⟩

/-- `FRAME_VALIDATE` returns `OK`, or `PayloadTooLarge` with the field's value. -/
theorem validateFrame_cases (L : Layout) (B : Frame) :
    ((fldByte B L .length).toNat ≤ cap L ∧ validateFrame L B = .ok) ∨
      (cap L < (fldByte B L .length).toNat ∧ validateFrame L B = .payloadTooLarge (fldByte B L .length).toNat) := by
  rw [validateFrame]
  split
  next hlong => exact .inr ⟨hlong, rfl⟩
  next hfits => exact .inl ⟨Nat.le_of_not_lt hfits, rfl⟩

/-- `FRAME_VALIDATE` answers with the status of the length check. -/
theorem frameValidate_answers (s : State) (L : Layout) (B : Frame) :
    Answers (.frameValidate L B) s (statusResponse (validateFrame L B)) := rfl

/-- Settles O9: the two outcomes of the check exclude each other. -/
theorem frameValidateComparesLength : Obligations.FrameValidateComparesLength := by
  intro s L B
  have hanswers := frameValidate_answers s L B
  rcases validateFrame_cases L B with ⟨hfits, hok⟩ | ⟨hlong, hraise⟩
  · rw [hok] at hanswers
    exact ⟨fun _ => hanswers, fun hlong => absurd hfits (Nat.not_le_of_lt hlong)⟩
  · rw [hraise] at hanswers
    exact ⟨fun hfits => absurd hlong (Nat.not_lt_of_le hfits), fun _ => hanswers⟩

/-! ## The trailer (R95 to R97) -/

/-- Settles O11. -/
theorem crcCoversPrecedingBytes : Obligations.CrcCoversPrecedingBytes :=
  fun _ _ _ hsame => ⟨crcOf_congr _ hsame, rfl⟩

/-- R14: the little-endian bytes of a number, the least significant first. -/
theorem byteAt_toLe32 (v : BitVec 32) {j : Nat} (h : j < 4) : byteAt (toLe32 v) j = (v >>> (8 * j)).setWidth 8 := by
  interval_cases j <;> rfl

/-- R14: the big-endian bytes, the least significant last. -/
theorem byteAt_toBe32 (v : BitVec 32) {j : Nat} (h : j < 4) : byteAt (toBe32 v) (3 - j) = (v >>> (8 * j)).setWidth 8 := by
  interval_cases j <;> rfl

/-- The trailer `CRC_GEN` writes. -/
theorem at_crcGenFrame_trailer (cfg : Config) (B : Frame) {j : Nat} (h : j < 4) :
    (crcGenFrame cfg B).at (208 + j) = byteAt (crcBytes cfg.crcOrder (crcOf cfg B)) j := by
  have hoff : off .F .crc = 208 := rfl
  rw [crcGenFrame, at_memWrite, hoff, crcBytes_length, if_pos (by simp only [frameSize]; omega), Nat.add_sub_cancel_left]

/-- A second generation computes the same CRC and writes it where it stands. -/
theorem crcGenFrame_crcGenFrame (cfg : Config) (B : Frame) : crcGenFrame cfg (crcGenFrame cfg B) = crcGenFrame cfg B := by
  calc crcGenFrame cfg (crcGenFrame cfg B)
      = memWrite (crcGenFrame cfg B) (off .F .crc) (crcBytes cfg.crcOrder (crcOf cfg B)) := by
        rw [crcGenFrame, crcOf_crcGenFrame]
    _ = crcGenFrame cfg B := memWrite_memWrite B _ rfl

/-- R95: the CRC is zero-extended to the field. -/
theorem crcOf_lt (cfg : Config) (B : Frame) : (crcOf cfg B).toNat < 2 ^ cfg.crc.width := by
  rw [crcOf, BitVec.toNat_setWidth]
  exact (Nat.mod_le _ _).trans_lt (BitVec.isLt _)

/-- `CRC_GEN` answers with the frame and its trailer. -/
theorem crcGen_answers (s : State) (B : Frame) : Answers (.crcGen B) s (okay (.frame (crcGenFrame s.cfg B)) []) := rfl

/-- Settles O12. -/
theorem crcGenWritesTrailerOnly : Obligations.CrcGenWritesTrailerOnly := by
  intro s B
  refine ⟨crcGenFrame s.cfg B, crcGen_answers s B, fun _ => at_crcGenFrame s.cfg B, ?_, ?_, ?_, crcOf_lt s.cfg B⟩
  · intro horder j hj
    rw [at_crcGenFrame_trailer s.cfg B hj, horder, crcBytes, byteAt_toLe32 _ hj]
  · intro horder j hj
    have hindex : 211 - j = 208 + (3 - j) := by omega
    rw [hindex, at_crcGenFrame_trailer s.cfg B (by omega), horder, crcBytes, byteAt_toBe32 _ hj]
  · have hagain := crcGen_answers s (crcGenFrame s.cfg B)
    rwa [crcGenFrame_crcGenFrame] at hagain

/-- An instruction completes with one response. -/
theorem answers_unique {i : Instr} {s : State} {r r' : Response} (h : Answers i s r) (h' : Answers i s r') : r = r' := by
  have hnext : answer s r = answer s r' := h.symm.trans h'
  simpa using congrArg State.resp (Host.Outcome.next.inj hnext)

/-- `CRC_CHECK` answers with the status of the comparison. -/
theorem crcCheck_answers (s : State) (B : Frame) : Answers (.crcCheck B) s (statusResponse (crcCheckFrame s.cfg B)) := rfl

/-- `CRC_CHECK` of a frame whose trailer is its CRC. -/
theorem crcCheck_answers_ok {s : State} {B : Frame} (h : storedCrc s.cfg B = crcOf s.cfg B) :
    Answers (.crcCheck B) s (okay .none []) := by
  have hanswers := crcCheck_answers s B
  rcases crcCheckFrame_cases s.cfg B with ⟨-, hok⟩ | ⟨hdiffer, -⟩
  · rwa [hok] at hanswers
  · exact absurd h hdiffer

/-- `CRC_CHECK` of a frame whose trailer is another value. -/
theorem crcCheck_answers_badCrc {s : State} {B : Frame} (h : storedCrc s.cfg B ≠ crcOf s.cfg B) :
    Answers (.crcCheck B) s (failed (.badCrc (storedCrc s.cfg B) (crcOf s.cfg B)) []) := by
  have hanswers := crcCheck_answers s B
  rcases crcCheckFrame_cases s.cfg B with ⟨hsame, -⟩ | ⟨-, hbad⟩
  · exact absurd hsame h
  · rwa [hbad] at hanswers

/-- Settles O13: the frame that `CRC_GEN` answers with stores the CRC it has. -/
theorem crcCheckComparesTrailer : Obligations.CrcCheckComparesTrailer := by
  intro s B C
  refine ⟨crcCheck_answers_ok, crcCheck_answers_badCrc, fun hgen => crcCheck_answers_ok ?_⟩
  cases answers_unique hgen (crcGen_answers s B)
  rw [storedCrc_crcGenFrame, crcOf_crcGenFrame]

/-! ## The parameter sets (R94, R99) -/

theorem crc_isoHdlc_values :
    (crc .isoHdlc crcCheckInput).toNat = 0xCBF43926 ∧ (crc .isoHdlc crcExampleBytes).toNat = 0x802537D2 := by decide +kernel

theorem crc_g704_values :
    (crc crcG704 crcCheckInput).toNat = 0x7 ∧ (crc crcG704 crcExampleBytes).toNat = 0x00000006 := by decide +kernel

theorem crc_interlaken_values :
    (crc crcInterlaken crcCheckInput).toNat = 0xB ∧ (crc crcInterlaken crcExampleBytes).toNat = 0x00000007 := by
  decide +kernel

theorem crc_openPgp_values :
    (crc crcOpenPgp crcCheckInput).toNat = 0x21CF02 ∧ (crc crcOpenPgp crcExampleBytes).toNat = 0x00412909 := by
  decide +kernel

/-- Settles O10: the default is the first set (log entry 2), and each set's values are evaluated. -/
theorem defaultCrcHasCheckValue : Obligations.DefaultCrcHasCheckValue := by
  obtain ⟨hcheck, hstored⟩ := crc_isoHdlc_values
  obtain ⟨hcheckG704, hstoredG704⟩ := crc_g704_values
  obtain ⟨hcheckInterlaken, hstoredInterlaken⟩ := crc_interlaken_values
  obtain ⟨hcheckOpenPgp, hstoredOpenPgp⟩ := crc_openPgp_values
  exact ⟨rfl, BitVec.eq_of_toNat_eq hcheck, hstored, hcheckG704, hstoredG704, hcheckInterlaken, hstoredInterlaken,
    hcheckOpenPgp, hstoredOpenPgp⟩

/-! ## What an instruction sends (R162, R203) -/

@[simp] theorem sentFrames_append (es fs : List Event) : sentFrames (es ++ fs) = sentFrames es ++ sentFrames fs := by
  induction es with
  | nil => rfl
  | cons e es ih => cases e <;> simp [sentFrames, ih]

/-- The response of a transmission in `s`: `OK`, and one frame, built under the layout in force. -/
def Response.Transmits (s : State) (r : Response) : Prop :=
  r.status = .ok ∧ ∃ (src dst proto : Byte) (msg : List Byte) (iv : Iv),
    r.events = [.send (wireFrame s.cfg s.key (shapeFrame s.cfg (layoutInForce s.key) src dst proto msg iv))]

/-- `TX_FRAME` sends nothing when it refuses the message. -/
theorem transmit_sends (s : State) (src dst proto : Byte) (msg : List Byte) (iv : Iv) :
    sentFrames (transmit s src dst proto msg iv).events = [] ∨ (transmit s src dst proto msg iv).Transmits s := by
  rcases transmit_cases s src dst proto msg iv with ⟨-, hsend⟩ | ⟨-, hrefuse⟩
  · rw [hsend]
    exact .inr ⟨rfl, src, dst, proto, msg, iv, rfl⟩
  · rw [hrefuse]
    exact .inl rfl

theorem frameResponse_silent (r : Except Status Frame) : sentFrames (frameResponse r).events = [] := by
  cases r <;> rfl

theorem statusResponse_silent (st : Status) : sentFrames (statusResponse st).events = [] := by
  rw [statusResponse]
  split <;> rfl

/-- R121: the self-test reports, and sends nothing. -/
theorem selftestResponse_silent (cfg : Config) (key : KeyReg) : sentFrames (selftestResponse cfg key).events = [] := by
  simp only [selftestResponse]
  split
  · split <;> rfl
  · rfl

/-- R153: the Chat handler renders, and sends nothing. -/
theorem chatRx_silent (cfg : Config) (L : Layout) (B : Frame) : sentFrames (chatRx cfg L B).events = [] := by
  rcases chatRx_cases cfg L B with ⟨-, hmalformed⟩ | ⟨-, -, hother⟩ | ⟨cls, -, -, hrender⟩
  · rw [hmalformed]; rfl
  · rw [hother]; rfl
  · rw [hrender]; rfl

/-- R155: the Ping handler transmits when it answers a probe. -/
theorem pingRx_sends (s : State) (L : Layout) (B : Frame) (iv : Iv) :
    sentFrames (pingRx s L B iv).events = [] ∨ (pingRx s L B iv).Transmits s := by
  rcases pingRx_cases s L B iv with ⟨-, hmalformed⟩ | ⟨-, ⟨-, hother⟩ | ⟨-, hprobe⟩ | ⟨-, hown⟩⟩
  · rw [hmalformed]
    exact .inl rfl
  · rw [hother]
    exact .inl rfl
  · rw [hprobe, pingRespond_eq]
    exact .inr ⟨rfl, _, _, _, _, _, rfl⟩
  · rw [hown]
    exact .inl rfl

/-- R150: of the dispatcher's routes only the Ping handler's transmits. -/
theorem dispatchFrame_sends (s : State) (L : Layout) (B : Frame) (iv : Iv) :
    sentFrames (dispatchFrame s L B iv).events = [] ∨ (dispatchFrame s L B iv).Transmits s := by
  rcases dispatchFrame_cases s L B iv with ⟨-, hchat⟩ | ⟨-, hping⟩ | ⟨-, htime⟩ | ⟨-, -, -, hdropped⟩
  · rw [hchat]
    exact .inl (chatRx_silent s.cfg L B)
  · rw [hping]
    exact pingRx_sends s L B iv
  · rw [htime]
    exact .inl rfl
  · rw [hdropped]
    exact .inl rfl

/-- R160: the receive path transmits when the dispatcher does. -/
theorem receiveFrame_sends (s : State) (W : Frame) (iv : Iv) :
    sentFrames (receiveFrame s W iv).events = [] ∨ (receiveFrame s W iv).Transmits s := by
  rcases receiveFrame_cases s W iv with ⟨-, hmagic⟩ | ⟨-, -, hcrc⟩ | ⟨-, -, hdispatch⟩
  · rw [hmagic]
    exact .inl rfl
  · rw [hcrc]
    exact .inl rfl
  · rw [hdispatch]
    exact dispatchFrame_sends s _ _ iv

/-- R203: an instruction that is no key operation answers without a `send`, or is one that may send and transmits. -/
theorem exec_eq_answer_sends {i : Instr} (h : mayWriteKey i = false) (s : State) :
    ∃ r, exec i s = answer s r ∧ (sentFrames r.events = [] ∨ maySend i = true ∧ r.Transmits s) := by
  cases i with
  | keySetLiteral lit => cases h
  | keySetIndex idx => cases h
  | keyClear => cases h
  | frameBuild L src dst proto msg iv => exact ⟨_, rfl, .inl (frameResponse_silent _)⟩
  | frameValidate L B => exact ⟨_, rfl, .inl (statusResponse_silent _)⟩
  | crcCheck B => exact ⟨_, rfl, .inl (statusResponse_silent _)⟩
  | encrypt P => exact ⟨_, rfl, .inl (frameResponse_silent _)⟩
  | decrypt C => exact ⟨_, rfl, .inl (frameResponse_silent _)⟩
  | selftest => exact ⟨_, rfl, .inl (selftestResponse_silent s.cfg s.key)⟩
  | chatRx L B => exact ⟨_, rfl, .inl (chatRx_silent s.cfg L B)⟩
  | protoChatF B iv => exact ⟨_, rfl, .inl (chatRx_silent s.cfg .F B)⟩
  | protoChatS B iv => exact ⟨_, rfl, .inl (chatRx_silent s.cfg .S B)⟩
  | pingRx L B iv => exact ⟨_, rfl, (pingRx_sends s L B iv).imp_right (And.intro rfl)⟩
  | protoPingF B iv => exact ⟨_, rfl, (pingRx_sends s .F B iv).imp_right (And.intro rfl)⟩
  | protoPingS B iv => exact ⟨_, rfl, (pingRx_sends s .S B iv).imp_right (And.intro rfl)⟩
  | dispatch L B iv => exact ⟨_, rfl, (dispatchFrame_sends s L B iv).imp_right (And.intro rfl)⟩
  | rxFrame W iv => exact ⟨_, rfl, (receiveFrame_sends s W iv).imp_right (And.intro rfl)⟩
  | txFrame src dst proto msg iv => exact ⟨_, rfl, (transmit_sends s src dst proto msg iv).imp_right (And.intro rfl)⟩
  | shout msg iv => exact ⟨_, rfl, (transmit_sends s _ _ _ msg iv).imp_right (And.intro rfl)⟩
  | tell msg dst iv => exact ⟨_, rfl, (transmit_sends s _ dst _ msg iv).imp_right (And.intro rfl)⟩
  | pingSend target iv => exact ⟨_, rfl, (transmit_sends s _ target _ _ iv).imp_right (And.intro rfl)⟩
  | _ => exact ⟨_, rfl, .inl rfl⟩

/-! ## `MAGIC` at the head of every frame sent (R91, R117, R162) -/

/-- R117, R162: neither the trailer nor the cipher touches `MAGIC`. -/
theorem memRead_wireFrame_magic (cfg : Config) (key : KeyReg) (L : Layout) (src dst proto : Byte) (msg : List Byte) (iv : Iv) :
    memRead (wireFrame cfg key (shapeFrame cfg L src dst proto msg iv)) 0 2 = cfg.magic.list := by
  rw [← memRead_shapeFrame_magic cfg L src dst proto msg iv]
  exact memRead_congr fun i hi => at_wireFrame cfg key _ (by omega)

/-- Emitting events whose frames start with `MAGIC` keeps the invariant. -/
theorem sentCarryMagic_of_log {s t : State} {evs : List Event} (hs : s.SentCarryMagic) (hcfg : t.cfg = s.cfg)
    (hlog : t.log = s.log ++ evs) (hevs : ∀ B ∈ sentFrames evs, memRead B 0 2 = s.cfg.magic.list) : t.SentCarryMagic := by
  intro B hB
  rw [hlog, sentFrames_append, List.mem_append] at hB
  rw [hcfg]
  exact hB.elim (hs B) (hevs B)

/-- So does emitting events that send nothing. -/
theorem sentCarryMagic_of_silent {s t : State} {evs : List Event} (hs : s.SentCarryMagic) (hcfg : t.cfg = s.cfg)
    (hlog : t.log = s.log ++ evs) (hevs : sentFrames evs = []) : t.SentCarryMagic :=
  sentCarryMagic_of_log hs hcfg hlog (by rw [hevs]; exact fun _ hB => absurd hB List.not_mem_nil)

/-- The frame of a transmission starts with `MAGIC`. -/
theorem Response.Transmits.carriesMagic {s : State} {r : Response} (h : r.Transmits s) :
    ∀ B ∈ sentFrames r.events, memRead B 0 2 = s.cfg.magic.list := by
  obtain ⟨-, src, dst, proto, msg, iv, hevents⟩ := h
  rw [hevents]
  intro B hB
  cases List.mem_singleton.1 hB
  exact memRead_wireFrame_magic ..

/-- An instruction keeps the invariant: what it sends, it transmits. -/
theorem exec_keepsSentMagic {i : Instr} {s t : State} (hs : s.SentCarryMagic) (h : exec i s = .next t) : t.SentCarryMagic := by
  cases hi : mayWriteKey i with
  | false =>
    obtain ⟨r, hr, hsends⟩ := exec_eq_answer_sends hi s
    cases hr.symm.trans h
    rcases hsends with hsilent | ⟨-, htransmits⟩
    · exact sentCarryMagic_of_silent hs rfl rfl hsilent
    · exact sentCarryMagic_of_log hs rfl rfl htransmits.carriesMagic
  | true =>
    obtain ⟨r, hr, -⟩ := exec_eq_writeKey_of_mayWriteKey hi s
    rcases writeKey_cases s r with ⟨key, -, hwrite⟩ | ⟨st, -, hraise⟩
    · cases (hr.trans hwrite).symm.trans h
      exact sentCarryMagic_of_silent hs rfl rfl rfl
    · cases (hr.trans hraise).symm.trans h
      exact sentCarryMagic_of_silent hs rfl rfl rfl

/-- Reporting a status to the user sends nothing. -/
theorem reported_keepsSentMagic {s : State} (hs : s.SentCarryMagic) : s.reported.SentCarryMagic := by
  rcases reported_log s with hsame | ⟨st, hreport⟩
  · exact sentCarryMagic_of_silent hs (reported_cfg s) (hsame.trans (List.append_nil _).symm) rfl
  · exact sentCarryMagic_of_silent hs (reported_cfg s) hreport rfl

/-- Serving a request keeps the invariant: beside an instruction, nothing sends. -/
theorem serve_keepsSentMagic {b : Body} {s t : State} (hs : s.SentCarryMagic) (h : serve b s = .next t) : t.SentCarryMagic := by
  rcases serve_next h with ⟨i, hexec⟩ | ⟨i, u, hexec, rfl⟩ | rfl | rfl | rfl | rfl | rfl | rfl
  · exact exec_keepsSentMagic hs hexec
  · exact reported_keepsSentMagic (exec_keepsSentMagic hs hexec)
  · exact hs
  · exact sentCarryMagic_of_silent hs rfl rfl rfl
  · exact sentCarryMagic_of_silent hs rfl rfl rfl
  · exact sentCarryMagic_of_silent hs rfl rfl rfl
  · exact hs
  · exact hs

/-- Settles O50: a step is idle or serves a request, and taking a request leaves the history and `MAGIC` alone. -/
theorem stepKeepsSentMagic : Obligations.StepKeepsSentMagic := by
  intro s t hs h
  rcases step_cases s with ⟨-, hidle⟩ | ⟨q, rest, -, hserve⟩
  · cases hidle.symm.trans h
    exact hs
  · have htaking : (s.taking q rest).SentCarryMagic := hs
    exact serve_keepsSentMagic htaking (hserve.symm.trans h)

end Sys2Proof.Machine
end

section
/-! SUPPORT. The inverse cipher (42_aes_block_cipher.md R132 to R138): each round transformation is undone, hence the
whole cipher, both ways. -/

namespace Sys2Proof.Machine

/-! ## `SubBytes` and `ShiftRows` (R133 to R135) -/

/-- R134: the inverse S-box undoes the S-box; the 256 entries of the two tables are compared. -/
theorem invSbox_sbox : ∀ a : Byte, invSbox (sbox a) = a := by decide +kernel

theorem invSubBytes_subBytes (X : Block) : invSubBytes (subBytes X) = X := by
  simp [invSubBytes, subBytes, Block.map, AesWord.map, invSbox_sbox]

theorem invShiftRows_shiftRows (X : Block) : invShiftRows (shiftRows X) = X := rfl

/-! ## `MixColumns` (R132, R135) -/

/-- Adding `t` where the sum of two bits is set is adding it once for each of them: twice is not at all. -/
theorem xor_of_bits (b c : Bool) (p q t : Byte) :
    (if (b ^^ c) = true then (p ^^^ q) ^^^ t else p ^^^ q) =
      (if b = true then p ^^^ t else p) ^^^ (if c = true then q ^^^ t else q) := by
  have htwice : (p ^^^ t) ^^^ (q ^^^ t) = p ^^^ q := by
    calc (p ^^^ t) ^^^ (q ^^^ t) = (p ^^^ q) ^^^ (t ^^^ t) := by ac_rfl
      _ = p ^^^ q := by simp
  match b, c with
  | false, false => rfl
  | false, true => exact BitVec.xor_assoc p q t
  | true, false => show (p ^^^ q) ^^^ t = (p ^^^ t) ^^^ q; ac_rfl
  | true, true => exact htwice.symm

/-- The fold of `gmul` adds bit by bit: two folds over one list of bit positions add to the fold of the sum. -/
theorem gmulFold_xor (a x y : Byte) (bits : List Nat) (p q : Byte) :
    bits.foldl (fun acc i => if (x ^^^ y).getLsbD i then acc ^^^ xtimes i a else acc) (p ^^^ q) =
      bits.foldl (fun acc i => if x.getLsbD i then acc ^^^ xtimes i a else acc) p ^^^
        bits.foldl (fun acc i => if y.getLsbD i then acc ^^^ xtimes i a else acc) q := by
  induction bits generalizing p q with
  | nil => rfl
  | cons i bits ih => simp only [List.foldl_cons, ← ih, ← xor_of_bits, ← BitVec.getLsbD_xor]

/-- R132: multiplication distributes over the exclusive or of its second factor. -/
theorem gmul_xor (a x y : Byte) : gmul a (x ^^^ y) = gmul a x ^^^ gmul a y := by
  simpa [gmul] using gmulFold_xor a x y (List.range 8) 0#8 0#8

/-- The first byte of `MixColumns` on a column; the others are it on the column rotated. -/
def mixByte (a b c d : Byte) : Byte := gmul 0x02 a ^^^ gmul 0x03 b ^^^ c ^^^ d

/-- The first byte of `InvMixColumns` on a column; the others are it on the column rotated. -/
def invMixByte (a b c d : Byte) : Byte := gmul 0x0E a ^^^ gmul 0x0B b ^^^ gmul 0x0D c ^^^ gmul 0x09 d

theorem mixColumn_eq_mixByte (a b c d : Byte) :
    mixColumn ⟨a, b, c, d⟩ = ⟨mixByte a b c d, mixByte b c d a, mixByte c d a b, mixByte d a b c⟩ := by
  simp only [mixColumn, mixByte, AesWord.mk.injEq, true_and]
  exact ⟨by ac_rfl, by ac_rfl, by ac_rfl⟩

theorem invMixColumn_eq_invMixByte (a b c d : Byte) :
    invMixColumn ⟨a, b, c, d⟩ = ⟨invMixByte a b c d, invMixByte b c d a, invMixByte c d a b, invMixByte d a b c⟩ := by
  simp only [invMixColumn, invMixByte, AesWord.mk.injEq, true_and]
  exact ⟨by ac_rfl, by ac_rfl, by ac_rfl⟩

/-- The products of the first row of the inverse matrix with the four columns of the matrix, on every byte. -/
theorem invMix_row_products : ∀ x : Byte,
    gmul 0x0E (gmul 0x02 x) ^^^ gmul 0x0B x ^^^ gmul 0x0D x ^^^ gmul 0x09 (gmul 0x03 x) = x ∧
    gmul 0x0E (gmul 0x03 x) ^^^ gmul 0x0B (gmul 0x02 x) ^^^ gmul 0x0D x ^^^ gmul 0x09 x = 0#8 ∧
    gmul 0x0E x ^^^ gmul 0x0B (gmul 0x03 x) ^^^ gmul 0x0D (gmul 0x02 x) ^^^ gmul 0x09 x = 0#8 ∧
    gmul 0x0E x ^^^ gmul 0x0B x ^^^ gmul 0x0D (gmul 0x03 x) ^^^ gmul 0x09 (gmul 0x02 x) = 0#8 := by decide +kernel

/-- The sixteen products of one byte of `InvMixColumns` after `MixColumns`, gathered by the byte they come from. -/
theorem invMixByte_mixByte (a b c d : Byte) :
    invMixByte (mixByte a b c d) (mixByte b c d a) (mixByte c d a b) (mixByte d a b c) = a := by
  obtain ⟨hown, -, -, -⟩ := invMix_row_products a
  obtain ⟨-, hsecond, -, -⟩ := invMix_row_products b
  obtain ⟨-, -, hthird, -⟩ := invMix_row_products c
  obtain ⟨-, -, -, hfourth⟩ := invMix_row_products d
  simp only [invMixByte, mixByte, gmul_xor]
  calc _ = (gmul 0x0E (gmul 0x02 a) ^^^ gmul 0x0B a ^^^ gmul 0x0D a ^^^ gmul 0x09 (gmul 0x03 a)) ^^^
        (gmul 0x0E (gmul 0x03 b) ^^^ gmul 0x0B (gmul 0x02 b) ^^^ gmul 0x0D b ^^^ gmul 0x09 b) ^^^
        (gmul 0x0E c ^^^ gmul 0x0B (gmul 0x03 c) ^^^ gmul 0x0D (gmul 0x02 c) ^^^ gmul 0x09 c) ^^^
        (gmul 0x0E d ^^^ gmul 0x0B d ^^^ gmul 0x0D (gmul 0x03 d) ^^^ gmul 0x09 (gmul 0x02 d)) := by ac_rfl
    _ = a := by rw [hown, hsecond, hthird, hfourth]; simp

theorem invMixColumn_mixColumn (w : AesWord) : invMixColumn (mixColumn w) = w := by
  obtain ⟨a, b, c, d⟩ := w
  rw [mixColumn_eq_mixByte, invMixColumn_eq_invMixByte]
  simp only [invMixByte_mixByte]

theorem invMixColumns_mixColumns (X : Block) : invMixColumns (mixColumns X) = X := by
  simp [invMixColumns, mixColumns, Block.map, invMixColumn_mixColumn]

/-! ## The rounds (R137, R138) -/

/-- One more round key at the end of the inverse cipher: one more round after all the others. -/
theorem decryptRounds_append (rks : List Block) (k k' Y : Block) :
    decryptRounds (rks ++ [k, k']) Y =
      (invSubBytes (invShiftRows (invMixColumns (decryptRounds (rks ++ [k]) Y)))).xor k' := by
  induction rks generalizing Y with
  | nil => rfl
  | cons k₀ rks ih =>
    cases rks with
    | nil => rfl
    | cons k₁ rks => exact ih _

theorem decryptBlock_append {rks : List Block} (h : rks ≠ []) (k k' Y : Block) :
    decryptBlock (rks ++ [k, k']) Y =
      (invSubBytes (invShiftRows (invMixColumns (decryptBlock (rks ++ [k]) Y)))).xor k' := by
  cases rks with
  | nil => exact absurd rfl h
  | cons k₀ rks => exact decryptRounds_append rks k k' (Y.xor k₀)

/-- R138: the inverse cipher takes the round keys from the last to the first and undoes their rounds in that order. -/
theorem decryptBlock_encryptRounds (ks : List Block) (k X : Block) :
    decryptBlock (k :: ks).reverse (encryptRounds ks (X.xor k)) = X := by
  induction ks generalizing k X with
  | nil => simp [encryptRounds, decryptBlock, decryptRounds]
  | cons k₁ ks ih =>
    cases ks with
    | nil => simp [encryptRounds, decryptBlock, decryptRounds, invShiftRows_shiftRows, invSubBytes_subBytes]
    | cons k₂ ks =>
      have hrest := ih k₁ (mixColumns (shiftRows (subBytes (X.xor k))))
      have hlast : (k₂ :: ks).reverse ≠ [] := by simp
      rw [List.reverse_cons] at hrest
      rw [List.reverse_cons, List.reverse_cons, List.append_assoc, List.cons_append, List.nil_append,
        decryptBlock_append hlast, encryptRounds, hrest, invMixColumns_mixColumns, invShiftRows_shiftRows,
        invSubBytes_subBytes, Block.xor_xor_cancel]

/-- R138: `AES_Dec` undoes `AES_Enc` under every key. -/
theorem aesDec_aesEnc (ks : KeySize) (K : List Byte) (X : Block) : aesDec ks K (aesEnc ks K X) = X := by
  unfold aesDec aesEnc
  cases roundKeys ks K with
  | nil => rfl
  | cons k rks => exact decryptBlock_encryptRounds rks k X

/-! ## The other way round -/

/-- There are finitely many blocks. -/
theorem finite_block : Finite Block := by
  have hbyte : Finite Byte := Finite.of_injective BitVec.toFin fun _ _ => BitVec.eq_of_toFin_eq
  have hword : Finite AesWord := by
    refine Finite.of_injective (fun w : AesWord => (w.b0, w.b1, w.b2, w.b3)) fun x y h => ?_
    cases x; cases y; simpa using h
  refine Finite.of_injective (fun X : Block => (X.c0, X.c1, X.c2, X.c3)) fun X Y h => ?_
  cases X; cases Y; simpa using h

/-- R138: an injection of finitely many blocks reaches them all, so `AES_Enc` undoes `AES_Dec` too. -/
theorem aesEnc_aesDec (ks : KeySize) (K : List Byte) (Y : Block) : aesEnc ks K (aesDec ks K Y) = Y := by
  have hinjective : Function.Injective (aesEnc ks K) := Function.LeftInverse.injective (aesDec_aesEnc ks K)
  have := finite_block
  obtain ⟨X, rfl⟩ := Finite.surjective_of_injective hinjective Y
  rw [aesDec_aesEnc]

/-- `AES_Dec` takes no two blocks to one. -/
theorem aesDec_injective (ks : KeySize) (K : List Byte) : Function.Injective (aesDec ks K) :=
  Function.LeftInverse.injective (aesEnc_aesDec ks K)

end Sys2Proof.Machine
end

section
/-! SUPPORT. The secure transform family (41_secure_transform.md): the key operations, chaining with a changed block,
`ENCRYPT` and `DECRYPT`, and the self-test. -/

namespace Sys2Proof.Machine

/-! ## The key operations (R110 to R112) -/

/-- A register written whole, with `OK`, is what `AnswersWritingKey` says. -/
theorem answersWritingKey_of_exec_eq_writeKey {i : Instr} {s : State} {key : KeyReg} (h : exec i s = writeKey s (.ok key)) :
    AnswersWritingKey i s key (okay .none []) := h

/-- A status raised instead leaves `KEY` alone. -/
theorem answers_of_exec_eq_writeKey_error {i : Instr} {s : State} {st : Status} (h : exec i s = writeKey s (.error st)) :
    Answers i s (failed st []) := h

theorem exec_keySetLiteral (lit : List Byte) (s : State) :
    exec (.keySetLiteral lit) s = writeKey s (literalKey s.cfg.keySize lit) := rfl

theorem exec_keySetIndex (idx : Byte) (s : State) : exec (.keySetIndex idx) s = writeKey s (indexKey s.cfg idx) := rfl

theorem exec_keyClear (s : State) : exec .keyClear s = writeKey s (.ok (KeyReg.absent s.cfg.keySize)) := rfl

/-- R110: a literal of 1 to `KEY_SIZE` bytes is set. -/
theorem keySetLiteral_answers_of_fits {s : State} {lit : List Byte} (hpos : 1 ≤ lit.length)
    (hfits : lit.length ≤ s.cfg.keySize.bytes) :
    AnswersWritingKey (.keySetLiteral lit) s (KeyReg.ofLiteral s.cfg.keySize lit) (okay .none []) := by
  apply answersWritingKey_of_exec_eq_writeKey
  rcases literalKey_cases s.cfg.keySize lit with ⟨-, -, hok⟩ | ⟨hbad, -⟩
  · rw [exec_keySetLiteral, hok]
  · omega

/-- R110: every other literal is refused. -/
theorem keySetLiteral_answers_of_not_fits {s : State} {lit : List Byte}
    (h : lit.length = 0 ∨ s.cfg.keySize.bytes < lit.length) :
    Answers (.keySetLiteral lit) s (failed .argumentError []) := by
  apply answers_of_exec_eq_writeKey_error
  rcases literalKey_cases s.cfg.keySize lit with ⟨hpos, hfits, -⟩ | ⟨-, herror⟩
  · omega
  · rw [exec_keySetLiteral, herror]

/-- Settles O14: a literal either fits or is refused. -/
theorem keySetLiteralPadsOrRefuses : Obligations.KeySetLiteralPadsOrRefuses := fun _ _ =>
  ⟨keySetLiteral_answers_of_fits, keySetLiteral_answers_of_not_fits⟩

/-- R111: an accepted index sets the stored bytes exactly like a literal. -/
theorem exec_keySetIndex_of_lt {idx : Byte} (h : idx.toNat < 2) (s : State) :
    exec (.keySetIndex idx) s = exec (.keySetLiteral (keystoreRecord s.cfg idx).bytes) s := by
  rw [exec_keySetIndex, exec_keySetLiteral]
  rcases indexKey_cases s.cfg idx with ⟨-, hliteral⟩ | ⟨hlarge, -⟩
  · rw [hliteral]
  · omega

/-- R111: an index that names no slot is refused. -/
theorem keySetIndex_answers_of_le {idx : Byte} (h : 2 ≤ idx.toNat) (s : State) :
    Answers (.keySetIndex idx) s (failed .argumentError []) := by
  apply answers_of_exec_eq_writeKey_error
  rcases indexKey_cases s.cfg idx with ⟨hsmall, -⟩ | ⟨-, herror⟩
  · omega
  · rw [exec_keySetIndex, herror]

/-- Settles O15: both slots reduce to the literal of the stored bytes, for which R110 is known. -/
theorem keySetIndexReadsKeystore : Obligations.KeySetIndexReadsKeystore := by
  intro s idx rec
  refine ⟨fun hslot => ?_, fun hlarge => keySetIndex_answers_of_le hlarge s⟩
  have hliteral : exec (.keySetIndex idx) s = exec (.keySetLiteral rec.bytes) s := by
    rcases hslot with ⟨rfl, rfl⟩ | ⟨rfl, rfl⟩
    · exact exec_keySetIndex_of_lt (by decide) s
    · exact exec_keySetIndex_of_lt (by decide) s
  refine ⟨hliteral, fun hpos hfits => ?_, fun hbad => ?_⟩
  · exact hliteral.trans (keySetLiteral_answers_of_fits hpos hfits)
  · exact hliteral.trans (keySetLiteral_answers_of_not_fits hbad)

/-- R112. -/
theorem keyClear_answers (s : State) : AnswersWritingKey .keyClear s (KeyReg.absent s.cfg.keySize) (okay .none []) :=
  answersWritingKey_of_exec_eq_writeKey (exec_keyClear s)

/-- Settles O16: after `KEY_CLEAR` the state is one without a key. -/
theorem keyClearMakesKeyAbsent : Obligations.KeyClearMakesKeyAbsent := by
  intro s
  refine ⟨keyClear_answers s, fun t B ht => ?_⟩
  have habsent : t.key.valid = false := by
    cases (keyClear_answers s).symm.trans ht
    rfl
  obtain ⟨hencrypt, hdecrypt, hselftest⟩ := cipherOps_answer_noKey habsent B
  exact ⟨hencrypt, hdecrypt, hselftest, layoutInForce_of_absent habsent⟩

/-! ## Chaining with a changed block (R115, R120) -/

@[simp] theorem Block.xor_right_inj (x y z : Block) : x.xor z = y.xor z ↔ x = y := by
  refine ⟨fun h => ?_, fun h => by rw [h]⟩
  rw [← Block.xor_xor_cancel x z, h, Block.xor_xor_cancel]

theorem AesWord.xor_xor_xor_cancel (x y z : AesWord) : (x.xor y).xor (y.xor z) = x.xor z := by
  cases x; cases y; cases z
  simp [AesWord.xor, BitVec.xor_assoc]

/-- The mask of two blocks takes one for the other in a sum. -/
theorem Block.xor_xor_xor_cancel (x y z : Block) : (x.xor y).xor (y.xor z) = x.xor z := by
  simp [Block.xor, AesWord.xor_xor_xor_cancel]

/-- Chaining decryption of two texts one after the other: the second starts from the last block of the first. -/
theorem cbcDecrypt_append (dec : Block → Block) (iv : Block) (xs ys : List Block) :
    cbcDecrypt dec iv (xs ++ ys) = cbcDecrypt dec iv xs ++ cbcDecrypt dec (xs.getLastD iv) ys := by
  induction xs generalizing iv with
  | nil => rfl
  | cons x xs ih => simp only [List.cons_append, cbcDecrypt, ih, List.getLastD_cons]

/-- The block before is used for the first plaintext block alone. -/
theorem tail_cbcDecrypt (dec : Block → Block) (c c' : Block) (cs : List Block) :
    (cbcDecrypt dec c cs).tail = (cbcDecrypt dec c' cs).tail := by
  cases cs with
  | nil => rfl
  | cons d ds => rfl

/-- In the first plaintext block, the two blocks before differ where the plaintexts do. -/
theorem head_cbcDecrypt {dec : Block → Block} {c c' q q' : Block} {cs : List Block}
    (h : (cbcDecrypt dec c cs).head? = some q) (h' : (cbcDecrypt dec c' cs).head? = some q') : q' = q.xor (c.xor c') := by
  cases cs with
  | nil => cases h
  | cons d ds =>
    cases h; cases h'
    exact (Block.xor_xor_xor_cancel (dec d) c c').symm

/-- Settles O23: what stands before the block is decrypted alike, the block itself under one and the same previous block, and
what follows with the changed block before it. -/
theorem changedBlockReachesNextOnly : Obligations.ChangedBlockReachesNextOnly := by
  intro dec iv c c' before after
  have hinjective : (∀ x y, dec x = dec y → x = y) → c ≠ c' →
      (dec c).xor (before.getLastD iv) ≠ (dec c').xor (before.getLastD iv) := fun hdec hne heq =>
    hne (hdec c c' ((Block.xor_right_inj _ _ _).1 heq))
  refine ⟨_, _, cbcDecrypt dec iv before, cbcDecrypt dec c after, cbcDecrypt dec c' after,
    cbcDecrypt_append dec iv before (c :: after), cbcDecrypt_append dec iv before (c' :: after),
    cbcDecrypt_length dec iv before, tail_cbcDecrypt dec c c' after, hinjective, ?_, fun q q' => head_cbcDecrypt⟩
  rintro ks K rfl
  exact hinjective fun x y hxy => aesDec_injective ks K hxy

/-! ## `ENCRYPT` and `DECRYPT` with a key (R117, R118) -/

theorem encryptOp_of_present {key : KeyReg} (h : key.valid = true) (cfg : Config) (P : Frame) :
    encryptOp cfg key P = .ok (encryptFrame cfg key.bytes P) := by
  simp [encryptOp, h]

theorem decryptOp_of_present {key : KeyReg} (h : key.valid = true) (cfg : Config) (C : Frame) :
    decryptOp cfg key C = .ok (decryptFrame cfg key.bytes C) := by
  simp [decryptOp, h]

theorem encrypt_answers_of_present {s : State} (h : s.key.valid = true) (P : Frame) :
    Answers (.encrypt P) s (okay (.frame (encryptFrame s.cfg s.key.bytes P)) []) := by
  have hexec : exec (.encrypt P) s = answer s (frameResponse (encryptOp s.cfg s.key P)) := rfl
  rw [encryptOp_of_present h] at hexec
  exact answers_of_exec_eq_answer hexec

theorem decrypt_answers_of_present {s : State} (h : s.key.valid = true) (C : Frame) :
    Answers (.decrypt C) s (okay (.frame (decryptFrame s.cfg s.key.bytes C)) []) := by
  have hexec : exec (.decrypt C) s = answer s (frameResponse (decryptOp s.cfg s.key C)) := rfl
  rw [decryptOp_of_present h] at hexec
  exact answers_of_exec_eq_answer hexec

theorem encrypt_answers_of_absent {s : State} (h : s.key.valid = false) (P : Frame) :
    Answers (.encrypt P) s (failed .noKey []) :=
  let ⟨hencrypt, _, _⟩ := cipherOps_answer_noKey h P
  hencrypt

theorem decrypt_answers_of_absent {s : State} (h : s.key.valid = false) (C : Frame) :
    Answers (.decrypt C) s (failed .noKey []) :=
  let ⟨_, hdecrypt, _⟩ := cipherOps_answer_noKey h C
  hdecrypt

theorem selftest_answers_of_absent {s : State} (h : s.key.valid = false) : Answers .selftest s (failed .noKey []) :=
  let ⟨_, _, hselftest⟩ := cipherOps_answer_noKey h emptyFrame
  hselftest

/-- Settles O24. -/
theorem encryptTransformsPayloadOnly : Obligations.EncryptTransformsPayloadOnly := fun s P =>
  ⟨fun hkey => ⟨encryptFrame s.cfg s.key.bytes P, encrypt_answers_of_present hkey P,
    fun _ houtside => at_encryptFrame s.cfg s.key.bytes P houtside, payloadBlocks_encryptFrame s.cfg s.key.bytes P⟩,
  fun hkey => encrypt_answers_of_absent hkey P⟩

/-- Settles O25. -/
theorem decryptTransformsPayloadOnly : Obligations.DecryptTransformsPayloadOnly := fun s C =>
  ⟨fun hkey => ⟨decryptFrame s.cfg s.key.bytes C, decrypt_answers_of_present hkey C,
    fun _ houtside => at_decryptFrame s.cfg s.key.bytes C houtside, payloadBlocks_decryptFrame s.cfg s.key.bytes C⟩,
  fun hkey => decrypt_answers_of_absent hkey C⟩

/-! ## The laws of the transform (R119) -/

/-- Writing the payload region twice: only the second text stands. -/
theorem memWrite_payload_memWrite_payload (B : Frame) {xs ys : List Block} (h : xs.length = ys.length) :
    memWrite (memWrite B (off .S .payload) (blockBytes xs)) (off .S .payload) (blockBytes ys) =
      memWrite B (off .S .payload) (blockBytes ys) :=
  memWrite_memWrite B (off .S .payload) (by simp [h])

/-- R119 (a): the transform changes only the payload region and keeps the IV, so chaining is undone block by block. -/
theorem decryptFrame_encryptFrame (cfg : Config) (K : List Byte) (P : Frame) :
    decryptFrame cfg K (encryptFrame cfg K P) = P := by
  rw [decryptFrame, ivBlock_encryptFrame, payloadBlocks_encryptFrame, cbcDecrypt_cbcEncrypt (aesDec_aesEnc cfg.keySize K),
    encryptFrame, memWrite_payload_memWrite_payload P (by simp), memWrite_payloadBlocks]

/-- R119 (a), the other way round. -/
theorem encryptFrame_decryptFrame (cfg : Config) (K : List Byte) (C : Frame) :
    encryptFrame cfg K (decryptFrame cfg K C) = C := by
  rw [encryptFrame, ivBlock_decryptFrame, payloadBlocks_decryptFrame, cbcEncrypt_cbcDecrypt (aesEnc_aesDec cfg.keySize K),
    decryptFrame, memWrite_payload_memWrite_payload C (by simp), memWrite_payloadBlocks]

/-- R119 (b), (c): every range outside the payload region reads as before. -/
theorem memRead_encryptFrame (cfg : Config) (K : List Byte) (P : Frame) {o n : Nat} (h : o + n ≤ 32 ∨ 208 ≤ o) :
    memRead (encryptFrame cfg K P) o n = memRead P o n :=
  memRead_congr fun _ _ => at_encryptFrame cfg K P (by omega)

/-- R119 (d): of the configuration, `ENCRYPT` uses the key size alone. -/
theorem encryptFrame_congr {cfg cfg' : Config} (h : cfg'.keySize = cfg.keySize) (K : List Byte) (P : Frame) :
    encryptFrame cfg' K P = encryptFrame cfg K P := by
  rw [encryptFrame, encryptFrame, h]

/-- Settles O26: the laws of R119 for the frames that the two operations answer with. -/
theorem encryptDecryptLaws : Obligations.EncryptDecryptLaws := by
  intro s P
  refine ⟨fun hkey => ?_, fun hkey => ⟨encrypt_answers_of_absent hkey P, decrypt_answers_of_absent hkey P⟩⟩
  have hdecrypt := decrypt_answers_of_present hkey (encryptFrame s.cfg s.key.bytes P)
  have hencrypt := encrypt_answers_of_present hkey (decryptFrame s.cfg s.key.bytes P)
  rw [decryptFrame_encryptFrame] at hdecrypt
  rw [encryptFrame_decryptFrame] at hencrypt
  refine ⟨_, _, encrypt_answers_of_present hkey P, hdecrypt, decrypt_answers_of_present hkey P, hencrypt,
    memRead_encryptFrame _ _ P (by decide), memRead_encryptFrame _ _ P (by decide), memRead_encryptFrame _ _ P (by decide),
    fun t htkey hbytes hsize => ?_⟩
  have hsame := encrypt_answers_of_present htkey P
  rwa [hbytes, encryptFrame_congr hsize] at hsame

/-! ## The self-test (R121) -/

/-- No region differs where the ciphertext keeps the clear-text region and the IV, and the round trip gives the plaintext. -/
theorem selftestMask_eq_zero {P C : Frame} (hclear : memRead C 0 4 = memRead P 0 4) (hiv : memRead C 4 16 = memRead P 4 16) :
    selftestMask P C P = 0#3 := by
  simp [selftestMask, differ, hclear, hiv]

/-- R121 by R119: with a key, the self-test reports the mask 0. -/
theorem selftestResponse_of_present {key : KeyReg} (h : key.valid = true) (cfg : Config) :
    selftestResponse cfg key = okay (.mask 0#3) [.selfTestReport 0#3] := by
  have hmask := selftestMask_eq_zero (memRead_encryptFrame cfg key.bytes (selftestFrame cfg) (o := 0) (n := 4) (by decide))
    (memRead_encryptFrame cfg key.bytes (selftestFrame cfg) (o := 4) (n := 16) (by decide))
  simp only [selftestResponse, h, if_true, decryptFrame_encryptFrame, hmask]
  rfl

theorem selftest_answers_of_present {s : State} (h : s.key.valid = true) :
    Answers .selftest s (okay (.mask 0#3) [.selfTestReport 0#3]) := by
  have hexec : exec .selftest s = answer s (selftestResponse s.cfg s.key) := rfl
  rw [selftestResponse_of_present h] at hexec
  exact answers_of_exec_eq_answer hexec

/-- Settles O27. -/
theorem selftestFindsNoDifference : Obligations.SelftestFindsNoDifference := fun _ =>
  ⟨selftest_answers_of_present, selftest_answers_of_absent⟩

end Sys2Proof.Machine
end

section
/-! SUPPORT. The key lines of the command surface (45_command_surface.md R190, R195 to R198): words, hexadecimal arguments, and
what a line makes of the response of its operation. -/

namespace Sys2Proof.Machine

/-! ## Words of a line (R190) -/

section
variable {w junk : List Byte} (hw : space ∉ w) (hjunk : junk = [] ∨ junk.head? = some space)
include hw

/-- In a word every byte is one that the scan for a space passes. -/
theorem ne_space_of_mem : ∀ b ∈ w, (b != space) = true := by
  intro b hb
  rw [bne_iff_ne]
  rintro rfl
  exact hw hb

include hjunk

/-- The scan stops at the space after the word, or at the end of the line. -/
theorem firstWord_append : firstWord (w ++ junk) = w := by
  rw [firstWord, List.takeWhile_append_of_pos (ne_space_of_mem hw)]
  rcases junk with - | ⟨b, bs⟩
  · simp
  · simp_all

theorem afterWord_append : afterWord (w ++ junk) = junk := by
  rw [afterWord, List.dropWhile_append_of_pos (ne_space_of_mem hw)]
  rcases junk with - | ⟨b, bs⟩
  · rfl
  · simp_all

end

/-! ## Hexadecimal (R197) -/

theorem hexVal_upperDigit : ∀ n < 16, hexVal (upperDigit n) = some n := by decide

theorem upperDigit_ne_space : ∀ n < 16, upperDigit n ≠ space := by decide

/-- A byte is the byte of its two digits. -/
theorem hexPair_upperDigits (b : Byte) : hexPair (upperDigit (b.toNat / 16)) (upperDigit (b.toNat % 16)) = some b := by
  have hlt := b.isLt
  simp [hexPair, hexVal_upperDigit (b.toNat / 16) (by omega), hexVal_upperDigit (b.toNat % 16) (by omega), Nat.div_add_mod]

theorem hexPairs_hexText (bs : List Byte) : hexPairs (hexText bs) = some bs := by
  induction bs with
  | nil => rfl
  | cons b bs ih => simp [hexText, hexPairs, hexPair_upperDigits, ih]

theorem hexText_length (bs : List Byte) : (hexText bs).length = 2 * bs.length := by
  induction bs with
  | nil => rfl
  | cons b bs ih => simp only [hexText, List.length_cons, ih]; omega

theorem parseHexBytes_hexText {bs : List Byte} (h : bs ≠ []) : parseHexBytes (hexText bs) = some bs := by
  have hne : hexText bs ≠ [] := by
    rw [← List.length_pos_iff, hexText_length]
    have := List.length_pos_iff.2 h
    omega
  rw [parseHexBytes, if_neg hne, hexPairs_hexText]

theorem space_notMem_hexText (bs : List Byte) : space ∉ hexText bs := by
  induction bs with
  | nil => simp [hexText]
  | cons b bs ih =>
    have hlt := b.isLt
    simp only [hexText, List.mem_cons, not_or]
    exact ⟨(upperDigit_ne_space _ (by omega)).symm, (upperDigit_ne_space _ (by omega)).symm, ih⟩

/-- Two characters that give a byte are both digits. -/
theorem hexVal_ne_none_of_hexPair {a b x : Byte} (h : hexPair a b = some x) : hexVal a ≠ none ∧ hexVal b ≠ none := by
  unfold hexPair at h
  split at h
  · simp_all
  · cases h

/-- What `parse_hex_bytes` reads: two characters for each byte, every one a digit. -/
theorem hexPairs_some {tok bs : List Byte} (h : hexPairs tok = some bs) :
    tok.length = 2 * bs.length ∧ ∀ c ∈ tok, hexVal c ≠ none := by
  induction tok using hexPairs.induct generalizing bs with
  | case1 => cases h; simp
  | case2 a => cases h
  | case3 a b r x xs hrest hpair ih =>
    simp only [hexPairs, hpair, hrest, Option.some.injEq] at h
    subst h
    obtain ⟨ha, hb⟩ := hexVal_ne_none_of_hexPair hpair
    obtain ⟨hlength, hdigits⟩ := ih hrest
    refine ⟨by simp only [List.length_cons, hlength]; omega, ?_⟩
    simp only [List.forall_mem_cons]
    exact ⟨ha, hb, hdigits⟩
  | case4 a b r hbad ih =>
    rw [hexPairs] at h
    split at h
    · exact absurd ‹_› (hbad _ _ ‹_›)
    · cases h

/-- An empty argument, one of odd length, or one with another character is refused. -/
theorem parseHexBytes_eq_none {tok : List Byte} (h : tok = [] ∨ tok.length % 2 = 1 ∨ ∃ c ∈ tok, hexVal c = none) :
    parseHexBytes tok = none := by
  rw [parseHexBytes]
  split
  · rfl
  · cases hp : hexPairs tok with
    | none => rfl
    | some bs =>
      obtain ⟨hlength, hdigits⟩ := hexPairs_some hp
      rcases h with hnil | hodd | ⟨c, hc, hbad⟩
      · contradiction
      · omega
      · exact absurd hbad (hdigits c hc)

/-- An argument that is read gives at least one byte. -/
theorem length_pos_of_parseHexBytes {tok bs : List Byte} (h : parseHexBytes tok = some bs) : 1 ≤ bs.length := by
  rw [parseHexBytes] at h
  split at h
  · cases h
  · rename_i hne
    obtain ⟨hlength, -⟩ := hexPairs_some h
    have := List.length_pos_iff.2 hne
    omega

/-! ## The key command (R195) -/

section
variable {arg junk : List Byte}

/-- The key command reads one word. -/
theorem keyCommand_append (harg : space ∉ arg) (hjunk : junk = [] ∨ junk.head? = some space) :
    keyCommand (space :: (arg ++ junk)) = keyCommand (space :: arg) := by
  have hword : firstWord arg = arg := by simpa using firstWord_append harg (.inl rfl)
  simp only [keyCommand, firstWord_append harg hjunk, hword]

theorem keyCommand_zero (hjunk : junk = [] ∨ junk.head? = some space) :
    keyCommand (space :: 0x30#8 :: junk) = .op (.keySetIndex 0#8) :=
  (keyCommand_append (arg := [0x30#8]) (by decide) hjunk).trans rfl

theorem keyCommand_one (hjunk : junk = [] ∨ junk.head? = some space) :
    keyCommand (space :: 0x31#8 :: junk) = .op (.keySetIndex 1#8) :=
  (keyCommand_append (arg := [0x31#8]) (by decide) hjunk).trans rfl

/-- An argument that is no index is a literal when it can be read. -/
theorem keyCommand_of_parse {lit : List Byte} (harg : space ∉ arg) (hjunk : junk = [] ∨ junk.head? = some space)
    (h0 : arg ≠ [0x30#8]) (h1 : arg ≠ [0x31#8]) (hparse : parseHexBytes arg = some lit) :
    keyCommand (space :: (arg ++ junk)) = .op (.keySetLiteral lit) := by
  have hne : arg ≠ [] := by
    rintro rfl
    cases hparse
  simp only [keyCommand, firstWord_append harg hjunk, hne, h0, h1, hparse, if_false]

/-- An argument that is no index and cannot be read, a missing one among them, is malformed. -/
theorem keyCommand_of_no_parse (harg : space ∉ arg) (hjunk : junk = [] ∨ junk.head? = some space)
    (h0 : arg ≠ [0x30#8]) (h1 : arg ≠ [0x31#8]) (hparse : parseHexBytes arg = none) :
    keyCommand (space :: (arg ++ junk)) = .malformed := by
  simp only [keyCommand, firstWord_append harg hjunk, h0, h1, hparse, if_false, ite_self]

end

/-! ## The three words (R190, log entry 6) -/

section
variable {cfg : Config} {junk : List Byte} (hwords : WordsApart cfg) (hjunk : junk = [] ∨ junk.head? = some space) (iv : Iv)
include hwords hjunk

theorem parseLine_keyWord : parseLine cfg (cfg.keyWord ++ junk) iv = keyCommand junk := by
  obtain ⟨⟨hne, hspace⟩, -, -, hfixed, -, -⟩ := hwords
  simp only [fixedWords, List.mem_cons, List.not_mem_nil, or_false, not_or] at hfixed
  obtain ⟨hping, hhelp, hdate⟩ := hfixed
  simp only [parseLine, firstWord_append hspace hjunk, afterWord_append hspace hjunk, List.append_eq_nil_iff, hne, hping, hhelp,
    hdate, false_and, if_false, if_true]

theorem parseLine_keyClearWord : parseLine cfg (cfg.keyClearWord ++ junk) iv = .op .keyClear := by
  obtain ⟨-, ⟨hne, hspace⟩, -, -, hapart, -⟩ := hwords
  simp only [fixedWords, List.mem_cons, List.not_mem_nil, or_false, not_or] at hapart
  obtain ⟨hkey, hping, hhelp, hdate⟩ := hapart
  simp only [parseLine, firstWord_append hspace hjunk, List.append_eq_nil_iff, hne, hping, hhelp, hdate, hkey, false_and,
    if_false, if_true]

theorem parseLine_selftestWord : parseLine cfg (cfg.selftestWord ++ junk) iv = .op .selftest := by
  obtain ⟨-, -, ⟨hne, hspace⟩, -, -, hapart⟩ := hwords
  simp only [fixedWords, List.mem_cons, List.not_mem_nil, or_false, not_or] at hapart
  obtain ⟨hkey, hclear, hping, hhelp, hdate⟩ := hapart
  simp only [parseLine, firstWord_append hspace hjunk, List.append_eq_nil_iff, hne, hping, hhelp, hdate, hkey, hclear, false_and,
    if_false, if_true]

end

/-! ## What a line makes of its operation's response (R198, log entry 7) -/

/-- A line is parsed and run in the state its request is served in. -/
theorem step_of_line {s : State} {text : List Byte} {iv : Iv} {now : TimeValue} {rest : List Request}
    (h : s.inbox = ⟨.line text iv, now⟩ :: rest) :
    step s = runCommand (parseLine s.cfg text iv) (s.serving now rest) := step_of_inbox_cons h

/-- An operation that returns `OK` is all that its line does. -/
theorem runCommand_of_ok {i : Instr} {s t : State} {r : Response} (hexec : exec i s = .next t) (hresp : t.resp = some r)
    (hok : r.status = .ok) : runCommand (.op i) s = exec i s := by
  rw [runCommand, hexec, reportOutcome, reported_of_ok t r hresp hok]

/-- A status other than `OK` without events is reported, and nothing else happens. -/
theorem runCommand_of_failed {i : Instr} {s : State} {now : TimeValue} {rest : List Request} {st : Status}
    (hfailed : Answers i (s.serving now rest) (failed st [])) (hst : st ≠ .ok) :
    runCommand (.op i) (s.serving now rest) = .next (s.complaining now rest st) := by
  rw [runCommand, hfailed, reportOutcome]
  simp [State.reported, failed, hst, Response.withEvent, State.complaining, State.after, State.serving]

/-- A malformed line is reported by the surface itself. -/
theorem runCommand_malformed (s : State) (now : TimeValue) (rest : List Request) :
    runCommand .malformed (s.serving now rest) = .next (s.complaining now rest .argumentError) := rfl

/-- Instructions that do the same give the same line. -/
theorem runCommand_congr {i j : Instr} {s : State} (h : exec i s = exec j s) : runCommand (.op i) s = runCommand (.op j) s := by
  rw [runCommand, runCommand, h]

/-! ## The key operations from a line (R195, R196) -/

section
variable {s : State} {now : TimeValue} {rest : List Request}

theorem runCommand_keySetLiteral_of_fits {lit : List Byte} (hpos : 1 ≤ lit.length)
    (hfits : lit.length ≤ s.cfg.keySize.bytes) :
    runCommand (.op (.keySetLiteral lit)) (s.serving now rest) = exec (.keySetLiteral lit) (s.serving now rest) :=
  runCommand_of_ok (keySetLiteral_answers_of_fits hpos hfits) rfl rfl

theorem runCommand_keySetLiteral_of_not_fits {lit : List Byte} (h : lit.length = 0 ∨ s.cfg.keySize.bytes < lit.length) :
    runCommand (.op (.keySetLiteral lit)) (s.serving now rest) = .next (s.complaining now rest .argumentError) :=
  runCommand_of_failed (keySetLiteral_answers_of_not_fits h) (by decide)

theorem runCommand_keySetIndex_of_fits {idx : Byte} (hidx : idx.toNat < 2)
    (hpos : 1 ≤ (keystoreRecord s.cfg idx).bytes.length)
    (hfits : (keystoreRecord s.cfg idx).bytes.length ≤ s.cfg.keySize.bytes) :
    runCommand (.op (.keySetIndex idx)) (s.serving now rest) = exec (.keySetIndex idx) (s.serving now rest) := by
  have hliteral := exec_keySetIndex_of_lt hidx (s.serving now rest)
  rw [runCommand_congr hliteral, hliteral]
  exact runCommand_keySetLiteral_of_fits hpos hfits

theorem runCommand_keySetIndex_of_not_fits {idx : Byte} (hidx : idx.toNat < 2)
    (h : (keystoreRecord s.cfg idx).bytes.length = 0 ∨ s.cfg.keySize.bytes < (keystoreRecord s.cfg idx).bytes.length) :
    runCommand (.op (.keySetIndex idx)) (s.serving now rest) = .next (s.complaining now rest .argumentError) := by
  rw [runCommand_congr (exec_keySetIndex_of_lt hidx (s.serving now rest))]
  exact runCommand_keySetLiteral_of_not_fits h

theorem runCommand_keyClear : runCommand (.op .keyClear) (s.serving now rest) = exec .keyClear (s.serving now rest) :=
  runCommand_of_ok (keyClear_answers (s.serving now rest)) rfl rfl

theorem runCommand_selftest_of_present (h : s.key.valid = true) :
    runCommand (.op .selftest) (s.serving now rest) = exec .selftest (s.serving now rest) :=
  runCommand_of_ok (selftest_answers_of_present (s := s.serving now rest) h) rfl rfl

theorem runCommand_selftest_of_absent (h : s.key.valid = false) :
    runCommand (.op .selftest) (s.serving now rest) = .next (s.complaining now rest .noKey) :=
  runCommand_of_failed (selftest_answers_of_absent (s := s.serving now rest) h) (by decide)

end

/-! ## The lines -/

section
variable {s : State} {arg junk : List Byte} {iv : Iv} {now : TimeValue} {rest : List Request}

/-- The key word with an argument: the key command of it. -/
theorem step_of_keyLine (hwords : WordsApart s.cfg)
    (h : s.inbox = ⟨.line (s.cfg.keyWord ++ space :: arg) iv, now⟩ :: rest) :
    step s = runCommand (keyCommand (space :: arg)) (s.serving now rest) := by
  rw [step_of_line h, parseLine_keyWord hwords (.inr rfl)]

/-- The key word alone misses its argument. -/
theorem step_of_bareKeyLine (hwords : WordsApart s.cfg) (h : s.inbox = ⟨.line s.cfg.keyWord iv, now⟩ :: rest) :
    step s = .next (s.complaining now rest .argumentError) := by
  have hparse := parseLine_keyWord hwords (.inl rfl) iv
  rw [List.append_nil] at hparse
  rw [step_of_line h, hparse]
  exact runCommand_malformed s now rest

section
variable (hwords : WordsApart s.cfg) (harg : space ∉ arg) (hjunk : junk = [] ∨ junk.head? = some space)
  (h0 : arg ≠ [0x30#8]) (h1 : arg ≠ [0x31#8])
  (h : s.inbox = ⟨.line (s.cfg.keyWord ++ space :: (arg ++ junk)) iv, now⟩ :: rest)
include hwords harg hjunk h0 h1 h

/-- The key line with an argument that is read as bytes which fit. -/
theorem step_of_keyLine_of_fits {lit : List Byte} (hparse : parseHexBytes arg = some lit)
    (hfits : lit.length ≤ s.cfg.keySize.bytes) : step s = exec (.keySetLiteral lit) (s.serving now rest) := by
  rw [step_of_keyLine hwords h, keyCommand_of_parse harg hjunk h0 h1 hparse]
  exact runCommand_keySetLiteral_of_fits (length_pos_of_parseHexBytes hparse) hfits

/-- The key line with an argument that is read as too many bytes. -/
theorem step_of_keyLine_of_tooLong {lit : List Byte} (hparse : parseHexBytes arg = some lit)
    (hlong : s.cfg.keySize.bytes < lit.length) : step s = .next (s.complaining now rest .argumentError) := by
  rw [step_of_keyLine hwords h, keyCommand_of_parse harg hjunk h0 h1 hparse]
  exact runCommand_keySetLiteral_of_not_fits (.inr hlong)

/-- The key line with an argument that cannot be read. -/
theorem step_of_keyLine_of_no_parse (hparse : parseHexBytes arg = none) :
    step s = .next (s.complaining now rest .argumentError) := by
  rw [step_of_keyLine hwords h, keyCommand_of_no_parse harg hjunk h0 h1 hparse]
  exact runCommand_malformed s now rest

end

/-- The key line with the hexadecimal text of bytes: they are set, or they are none or too many. -/
theorem step_of_hexTextLine (hwords : WordsApart s.cfg) (hjunk : junk = [] ∨ junk.head? = some space) {lit : List Byte}
    (h : s.inbox = ⟨.line (s.cfg.keyWord ++ space :: (hexText lit ++ junk)) iv, now⟩ :: rest) :
    (1 ≤ lit.length → lit.length ≤ s.cfg.keySize.bytes → step s = exec (.keySetLiteral lit) (s.serving now rest)) ∧
      (lit = [] ∨ s.cfg.keySize.bytes < lit.length → step s = .next (s.complaining now rest .argumentError)) := by
  have hno (c : Byte) : hexText lit ≠ [c] := fun heq => by
    have hlength := congrArg List.length heq
    rw [hexText_length, List.length_singleton] at hlength
    omega
  have hspace := space_notMem_hexText lit
  refine ⟨fun hpos hfits => ?_, fun hbad => ?_⟩
  · exact step_of_keyLine_of_fits hwords hspace hjunk (hno _) (hno _) h
      (parseHexBytes_hexText (List.length_pos_iff.1 hpos)) hfits
  · by_cases hnil : lit = []
    · subst hnil
      exact step_of_keyLine_of_no_parse hwords hspace hjunk (hno _) (hno _) h rfl
    · exact step_of_keyLine_of_tooLong hwords hspace hjunk (hno _) (hno _) h (parseHexBytes_hexText hnil)
        (hbad.resolve_left hnil)

/-- The key line with a store index: the stored key is set, or it is empty or too long. -/
theorem step_of_indexLine (hwords : WordsApart s.cfg) {idx : Byte} (hidx : idx.toNat < 2)
    (hcommand : keyCommand (space :: arg) = .op (.keySetIndex idx))
    (h : s.inbox = ⟨.line (s.cfg.keyWord ++ space :: arg) iv, now⟩ :: rest) :
    (1 ≤ (keystoreRecord s.cfg idx).bytes.length → (keystoreRecord s.cfg idx).bytes.length ≤ s.cfg.keySize.bytes →
        step s = exec (.keySetIndex idx) (s.serving now rest)) ∧
      ((keystoreRecord s.cfg idx).bytes.length = 0 ∨ s.cfg.keySize.bytes < (keystoreRecord s.cfg idx).bytes.length →
        step s = .next (s.complaining now rest .argumentError)) := by
  rw [step_of_keyLine hwords h, hcommand]
  exact ⟨runCommand_keySetIndex_of_fits hidx, runCommand_keySetIndex_of_not_fits hidx⟩

end

/-- Settles O60: each form of line is parsed to its command, and the command runs its operation or is reported. -/
theorem keyLinesReachKeyOperations : Obligations.KeyLinesReachKeyOperations := by
  intro s lit arg junk iv now rest hwords harg hjunk
  refine ⟨step_of_hexTextLine hwords hjunk, fun h h0 h1 => ⟨?_, ?_, fun hbad => ?_⟩, step_of_bareKeyLine hwords,
    step_of_indexLine hwords (by decide) (keyCommand_zero hjunk), step_of_indexLine hwords (by decide) (keyCommand_one hjunk),
    fun h => ?_, fun h => ?_⟩
  · exact step_of_keyLine_of_fits hwords harg hjunk h0 h1 h
  · exact step_of_keyLine_of_tooLong hwords harg hjunk h0 h1 h
  · exact step_of_keyLine_of_no_parse hwords harg hjunk h0 h1 h (parseHexBytes_eq_none hbad)
  · rw [step_of_line h, parseLine_keyClearWord hwords hjunk]
    exact runCommand_keyClear
  · rw [step_of_line h, parseLine_selftestWord hwords hjunk]
    exact ⟨runCommand_selftest_of_present, runCommand_selftest_of_absent⟩

end Sys2Proof.Machine
end

section
/-! SUPPORT. The S-boxes as functions of a byte (42_aes_block_cipher.md R132 to R134), and the known answers of the key
expansion, the cipher and chaining (R136, R137, R139). -/

namespace Sys2Proof.Machine

/-! ## The S-box and the multiplicative inverse (R132, R133) -/

/-- The inverse of the affine transform of R133, by the rotations that undo its own. -/
def sboxAffineInv (s : Byte) : Byte := s.rotateLeft 1 ^^^ s.rotateLeft 3 ^^^ s.rotateLeft 6 ^^^ 0x05#8

theorem sboxAffine_sboxAffineInv : ∀ s : Byte, sboxAffine (sboxAffineInv s) = s := by decide +kernel

/-- R133: with the affine transform taken off, the table's entry for `a` is the inverse of `a` in the field; one product
for each of the 255 entries. -/
theorem gmul_sboxAffineInv_sbox : ∀ a : Byte, a ≠ 0#8 → gmul a (sboxAffineInv (sbox a)) = 1#8 := by decide +kernel

/-- Settles O20: the inverse of `a` is what the affine transform takes to the table's entry. -/
theorem sboxIsAffineOfInverse : Obligations.SboxIsAffineOfInverse := by
  have hzero : sbox 0#8 = sboxAffine 0#8 := rfl
  exact ⟨hzero, fun a ha =>
    ⟨sboxAffineInv (sbox a), gmul_sboxAffineInv_sbox a ha, (sboxAffine_sboxAffineInv (sbox a)).symm⟩⟩

/-! ## The two S-boxes (R134) -/

/-- R134 the other way round: the S-box takes no two of the finitely many bytes to one, so it reaches them all. -/
theorem sbox_invSbox (a : Byte) : sbox (invSbox a) = a := by
  have hinjective : Function.Injective sbox := Function.LeftInverse.injective invSbox_sbox
  obtain ⟨b, rfl⟩ := Finite.surjective_of_injective hinjective a
  rw [invSbox_sbox]

/-- Settles O21: the tables undo each other entry by entry one way, hence the other way too. -/
theorem invSboxInvertsSbox : Obligations.InvSboxInvertsSbox := fun a => ⟨invSbox_sbox a, sbox_invSbox a⟩

/-! ## The known answers (R136, R137, R139) -/

/-- R114 one block at a time: a known first ciphertext block is what the rest is chained from, so each block of a known
answer is one evaluation of the cipher. -/
theorem cbcEncrypt_cons_of_eq {enc : Block → Block} {prev p c : Block} {ps cs : List Block} (hhead : enc (p.xor prev) = c)
    (htail : cbcEncrypt enc c ps = cs) : cbcEncrypt enc prev (p :: ps) = c :: cs := by
  rw [cbcEncrypt, hhead, htail]

/-- Settles O22: the law of R138 is that of the two cipher functions. The sixteen expanded words of R136 and the five
ciphertexts of R137 are single evaluations, the chained blocks of R139 one for each block. -/
theorem aesDecInvertsAesEnc : Obligations.AesDecInvertsAesEnc := by
  have hlaw (ks : KeySize) (K : List Byte) (X : Block) : aesDec ks K (aesEnc ks K X) = X ∧ aesEnc ks K (aesDec ks K X) = X :=
    ⟨aesDec_aesEnc ks K X, aesEnc_aesDec ks K X⟩
  refine ⟨hlaw, ?_, ?_, ?_, ?_, ?_, ?_, ?_, ?_, ?_, ?_, ?_, ?_, ?_, ?_, ?_, ?_, ?_, ?_, ?_, ?_, ?_, ?chain128, ?chain192, ?chain256⟩
  case chain128 | chain192 | chain256 =>
    unfold knownChain
    iterate 4 refine cbcEncrypt_cons_of_eq (by decide +kernel) ?_
    rfl
  all_goals decide +kernel

end Sys2Proof.Machine
end

section
/-! SUPPORT. The dispatcher family (43_dispatcher.md): the routes, the text and the classes of Chat and Ping frames, the checks of
the receive path, and the transmit path with what undoes it at the receiver. -/

namespace Sys2Proof.Machine

/-! ## The routes (R150, R157) -/

theorem dispatchFrame_of_chat {L : Layout} {B : Frame} (h : fldByte B L .protocol = 2#8) (s : State) (iv : Iv) :
    dispatchFrame s L B iv = routeChat s L B := by
  simp [dispatchFrame, h]

theorem dispatchFrame_of_time {L : Layout} {B : Frame} (h : fldByte B L .protocol = 1#8) (s : State) (iv : Iv) :
    dispatchFrame s L B iv = routeTime := by
  simp [dispatchFrame, h, protoChat, protoPing]

/-- R70: `Reserved` and the values from 4 on are those of no handler and no collaborator. -/
theorem dispatchFrame_of_unknown {L : Layout} {B : Frame}
    (h : fldByte B L .protocol = 0#8 ∨ 4 ≤ (fldByte B L .protocol).toNat) (s : State) (iv : Iv) :
    dispatchFrame s L B iv = routeDropped := by
  rcases dispatchFrame_cases s L B iv with ⟨hp, -⟩ | ⟨hp, -⟩ | ⟨hp, -⟩ | ⟨-, -, -, hdropped⟩
  · simp [hp] at h
  · simp [hp] at h
  · simp [hp] at h
  · exact hdropped

/-- `DISPATCH` answers with the response of the route its frame takes. -/
theorem dispatch_answers_of_eq {s : State} {L : Layout} {B : Frame} {iv : Iv} {r : Response}
    (h : dispatchFrame s L B iv = r) : Answers (.dispatch L B iv) s r := h ▸ dispatch_answers s L B iv

/-- `CHAT_RX` answers with the Chat handler's response. -/
theorem chatRx_answers (s : State) (L : Layout) (B : Frame) : Answers (.chatRx L B) s (chatRx s.cfg L B) := rfl

/-- Settles O28: the handler's response and the one of `DISPATCH` differ in the route alone. -/
theorem dispatchRoutesByProtocol : Obligations.DispatchRoutesByProtocol := fun s L B iv =>
  ⟨fun hchat => ⟨_, chatRx_answers s L B, dispatch_answers_of_eq (dispatchFrame_of_chat hchat s iv)⟩,
    fun hping => ⟨_, pingRx_answers s L B iv, dispatch_answers_of_eq (dispatchFrame_of_ping hping s iv)⟩,
    fun htime => dispatch_answers_of_eq (dispatchFrame_of_time htime s iv),
    fun hunknown => dispatch_answers_of_eq (dispatchFrame_of_unknown hunknown s iv)⟩

/-! ## The Chat handler (R153) -/

theorem chatClass_none {a dst : Byte} (hother : dst ≠ a) (hnotAll : dst ≠ broadcast) : chatClass a dst = none := by
  simp [chatClass, hother, hnotAll]

/-- The length test comes before every address test. -/
theorem chatRx_of_long {cfg : Config} {L : Layout} {B : Frame} (h : cap L < (fldByte B L .length).toNat) :
    chatRx cfg L B = malformed (fldByte B L .length) := by
  rcases chatRx_cases cfg L B with ⟨-, hmalformed⟩ | ⟨hfits, -⟩ | ⟨_, hfits, -⟩
  · exact hmalformed
  · exact absurd h (Nat.not_lt_of_le hfits)
  · exact absurd h (Nat.not_lt_of_le hfits)

/-- A frame of consistent length for another node. -/
theorem chatRx_of_unaddressed {cfg : Config} {L : Layout} {B : Frame} (hlen : (fldByte B L .length).toNat ≤ cap L)
    (hnone : chatClass cfg.nodeAddr (fldByte B L .destination) = none) : chatRx cfg L B = unaddressed := by
  rcases chatRx_cases cfg L B with ⟨hlong, -⟩ | ⟨-, -, hunaddressed⟩ | ⟨_, -, hsome, -⟩
  · exact absurd hlen (Nat.not_le_of_lt hlong)
  · exact hunaddressed
  · cases hnone.symm.trans hsome

/-- A frame of consistent length and of a class is rendered under that class. -/
theorem chatRx_of_chatClass {cfg : Config} {L : Layout} {B : Frame} {cls : ChatClass}
    (hlen : (fldByte B L .length).toNat ≤ cap L) (hcls : chatClass cfg.nodeAddr (fldByte B L .destination) = some cls) :
    chatRx cfg L B = okay (.chat cls (fldByte B L .source) (textOf L B (fldByte B L .length).toNat))
      [.chatRender cls (fldByte B L .source) (textOf L B (fldByte B L .length).toNat)] := by
  rcases chatRx_cases cfg L B with ⟨hlong, -⟩ | ⟨-, hnone, -⟩ | ⟨cls', -, hsome, hrender⟩
  · exact absurd hlen (Nat.not_le_of_lt hlong)
  · cases hnone.symm.trans hcls
  · cases hsome.symm.trans hcls
    rw [hrender, chatText_eq_textOf]
    rfl

/-- Settles O31: each clause is one of the handler's cases, by the class of the destination. -/
theorem chatRxClassifies : Obligations.ChatRxClassifies := by
  rintro s L B _ _ rfl rfl
  have hanswers := chatRx_answers s L B
  refine ⟨fun hlong => ?malformed, fun hlen hdst => ?direct, fun hlen hother hdst => ?broadcast,
    fun hlen hother hnotAll => ?unaddressed⟩
  case malformed => rwa [chatRx_of_long hlong] at hanswers
  case direct => rwa [chatRx_of_chatClass hlen (by rw [hdst, chatClass_direct])] at hanswers
  case broadcast =>
    rw [hdst] at hother
    rwa [chatRx_of_chatClass hlen (by rw [hdst, chatClass_broadcast hother])] at hanswers
  case unaddressed => rwa [chatRx_of_unaddressed hlen (chatClass_none hother hnotAll)] at hanswers

/-! ## The Chat text (R154, R48) -/

/-- A byte string and one it begins with have the same bytes up to the shorter's end. -/
theorem byteAt_of_prefix {a b : List Byte} (h : a <+: b) {k : Nat} (hk : k < a.length) : byteAt b k = byteAt a k := by
  obtain ⟨c, rfl⟩ := h
  rw [byteAt_append, if_pos hk]

/-- The first byte past those taken is one at which taking stops. -/
theorem byteAt_length_takeWhile {p : Byte → Bool} {bs : List Byte} (h : (bs.takeWhile p).length < bs.length) :
    p (byteAt bs (bs.takeWhile p).length) = false := by
  induction bs with
  | nil => cases h
  | cons b bs ih =>
    cases hb : p b with
    | false => simp [hb]
    | true =>
      simp only [List.takeWhile_cons, hb, if_true, List.length_cons, byteAt_cons_succ] at h ⊢
      exact ih (Nat.lt_of_succ_lt_succ h)

theorem payload_within_frame {L : Layout} {n : Nat} (h : n ≤ cap L) : off L .payload + n ≤ frameSize := by
  have hend := (padding_payload_adjacent L).2
  simp only [frameSize]
  omega

/-- R154: the text is taken from the first `n` payload bytes. -/
theorem textOf_eq_takeWhile_memRead (L : Layout) (B : Frame) (n : Nat) :
    textOf L B n = (memRead B (off L .payload) n).takeWhile (· != 0#8) := rfl

theorem textOf_prefix (L : Layout) (B : Frame) (n : Nat) : textOf L B n <+: memRead B (off L .payload) n :=
  List.takeWhile_prefix _

theorem textOf_length_le {L : Layout} {n : Nat} (B : Frame) (h : n ≤ cap L) : (textOf L B n).length ≤ n := by
  calc (textOf L B n).length ≤ (memRead B (off L .payload) n).length := (textOf_prefix L B n).length_le
    _ = n := memRead_length B (payload_within_frame h)

theorem zero_notMem_textOf (L : Layout) (B : Frame) (n : Nat) : 0#8 ∉ textOf L B n := fun hmem => by
  simpa using List.mem_takeWhile_imp hmem

/-- Each byte of the text is the payload byte at its index. -/
theorem byteAt_textOf {L : Layout} {B : Frame} {n k : Nat} (hn : n ≤ cap L) (hk : k < (textOf L B n).length) :
    byteAt (textOf L B n) k = B.at (off L .payload + k) := by
  have hkn : k < n := hk.trans_le (textOf_length_le B hn)
  rw [← byteAt_of_prefix (textOf_prefix L B n) hk, byteAt_memRead, if_pos hkn]

/-- Only a 00 ends the text before the declared length. -/
theorem at_textOf_length {L : Layout} {B : Frame} {n : Nat} (hn : n ≤ cap L) (hshort : (textOf L B n).length < n) :
    B.at (off L .payload + (textOf L B n).length) = 0#8 := by
  have hread := memRead_length B (payload_within_frame hn)
  have hstop := byteAt_length_takeWhile (p := (· != 0#8)) (bs := memRead B (off L .payload) n) (by rwa [hread])
  rw [← textOf_eq_takeWhile_memRead, byteAt_memRead, if_pos hshort] at hstop
  simpa using hstop

/-- No payload byte at index `n` or above is read. -/
theorem textOf_congr {L : Layout} {B C : Frame} {n : Nat}
    (h : ∀ k < n, C.at (off L .payload + k) = B.at (off L .payload + k)) : textOf L C n = textOf L B n := by
  rw [textOf_eq_takeWhile_memRead, textOf_eq_takeWhile_memRead, memRead_congr h]

/-- Settles O33. -/
theorem chatTextReadsWithinLength : Obligations.ChatTextReadsWithinLength := by
  intro L B C n hn
  rw [chatText_eq_textOf, chatText_eq_textOf]
  exact ⟨rfl, textOf_length_le B hn, zero_notMem_textOf L B n, fun _ => byteAt_textOf hn, at_textOf_length hn, textOf_congr⟩

/-! ## The Ping handler (R155) -/

/-- The length test comes before every address test. -/
theorem pingRx_of_badLength {L : Layout} {B : Frame}
    (h : (fldByte B L .length).toNat < 11 ∨ cap L < (fldByte B L .length).toNat) (s : State) (iv : Iv) :
    pingRx s L B iv = malformed (fldByte B L .length) := by
  rcases pingRx_cases s L B iv with ⟨-, hmalformed⟩ | ⟨hgood, -⟩
  · exact hmalformed
  · exact absurd h hgood

/-- A well-sized frame neither from nor to this node. -/
theorem pingRx_of_unaddressed {s : State} {L : Layout} {B : Frame} (hmin : 11 ≤ (fldByte B L .length).toNat)
    (hmax : (fldByte B L .length).toNat ≤ cap L)
    (hnone : pingClass s.cfg.nodeAddr (fldByte B L .destination) (fldByte B L .source) (pingOrigin L B) = none) (iv : Iv) :
    pingRx s L B iv = unaddressed := by
  rcases pingRx_cases s L B iv with ⟨hbad, -⟩ | ⟨-, ⟨-, hunaddressed⟩ | ⟨hsome, -⟩ | ⟨hsome, -⟩⟩
  · omega
  · exact hunaddressed
  · cases hnone.symm.trans hsome
  · cases hnone.symm.trans hsome

theorem pingClass_eq_probeToUs_iff {a dst src origin : Byte} :
    pingClass a dst src origin = some .probeToUs ↔ dst = a ∧ origin ≠ a := by
  rw [pingClass]
  split
  next hprobe => exact iff_of_true rfl hprobe
  next hprobe => split <;> simp [hprobe]

/-- What is no probe to this node, but from it or to it, is the response to its own probe. -/
theorem pingClass_of_not_probe {a dst src origin : Byte} (hprobe : ¬(dst = a ∧ origin ≠ a)) (hours : src = a ∨ dst = a) :
    pingClass a dst src origin = some .ownResponse := by
  rw [pingClass, if_neg hprobe, if_pos hours]

theorem pingClass_none {a dst src : Byte} (hsrc : src ≠ a) (hdst : dst ≠ a) (origin : Byte) :
    pingClass a dst src origin = none := by
  simp [pingClass, hsrc, hdst]

/-- Settles O34: each clause is one of the handler's cases, by the class of the addresses. -/
theorem pingRxClassifies : Obligations.PingRxClassifies := by
  rintro s L B iv _ _ _ rfl rfl rfl
  have hanswers := pingRx_answers s L B iv
  refine ⟨fun hbad => ?malformed, fun hmin hmax hdst horigin => ?probe, fun hmin hmax hprobe hours => ?response,
    fun hmin hmax hsrc hdst => ?unaddressed⟩
  case malformed => rwa [pingRx_of_badLength hbad] at hanswers
  case probe =>
    obtain ⟨W, htx, hsend⟩ := pingRespond_sends s L B iv
    rw [pingRx_of_pingClass hmin hmax (pingClass_eq_probeToUs_iff.2 ⟨hdst, horigin⟩), pingEvents, hsend] at hanswers
    exact ⟨W, htx, hanswers⟩
  case response =>
    rwa [pingRx_of_pingClass hmin hmax (pingClass_of_not_probe hprobe hours), pingEvents, pingReport_eq] at hanswers
  case unaddressed => rwa [pingRx_of_unaddressed hmin hmax (pingClass_none hsrc hdst _)] at hanswers

/-- Only a probe to this node is answered. -/
theorem pingRx_silent {s : State} {L : Layout} {B : Frame}
    (h : ¬(fldByte B L .destination = s.cfg.nodeAddr ∧ pingOrigin L B ≠ s.cfg.nodeAddr)) (iv : Iv) :
    sentFrames (pingRx s L B iv).events = [] := by
  rcases pingRx_cases s L B iv with ⟨-, hmalformed⟩ | ⟨-, ⟨-, hunaddressed⟩ | ⟨hprobe, -⟩ | ⟨-, hown⟩⟩
  · rw [hmalformed]; rfl
  · rw [hunaddressed]; rfl
  · exact absurd (pingClass_eq_probeToUs_iff.1 hprobe) h
  · rw [hown]; rfl

/-- Settles O36: a frame to its own origin is a probe to no node, for its destination cannot be this node and its origin
another. -/
theorem responseIsNeverAnswered : Obligations.ResponseIsNeverAnswered := by
  intro s t L B iv horigin h
  cases (pingRx_answers s L B iv).symm.trans h
  refine ⟨_, rfl, pingRx_silent (fun ⟨hdst, hother⟩ => hother ?_) iv⟩
  rw [pingOrigin, ← horigin, hdst]

/-! ## The receive path (R160) -/

theorem layoutInForce_eq_ite (key : KeyReg) : layoutInForce key = if key.valid then .S else .F := rfl

theorem plainFrame_of_absent {key : KeyReg} (h : key.valid = false) (cfg : Config) (W : Frame) : plainFrame cfg key W = W := by
  simp [plainFrame, h]

theorem plainFrame_of_present {key : KeyReg} (h : key.valid = true) (cfg : Config) (W : Frame) :
    plainFrame cfg key W = decryptFrame cfg key.bytes W := by
  simp [plainFrame, h]

/-- The plaintext of a received block is the block itself without a key, and what `DECRYPT` answers with one. -/
theorem eq_plainFrame {s : State} {W B : Frame}
    (h : s.key.valid = false ∧ B = W ∨ s.key.valid = true ∧ Answers (.decrypt W) s (okay (.frame B) [])) :
    B = plainFrame s.cfg s.key W := by
  rcases h with ⟨habsent, rfl⟩ | ⟨hpresent, hdecrypt⟩
  · exact (plainFrame_of_absent habsent s.cfg B).symm
  · cases answers_unique hdecrypt (decrypt_answers_of_present hpresent W)
    exact (plainFrame_of_present hpresent s.cfg W).symm

/-- `RX_FRAME` answers with the receive path's response. -/
theorem rxFrame_answers (s : State) (W : Frame) (iv : Iv) : Answers (.rxFrame W iv) s (receiveFrame s W iv) := rfl

/-- R160: when both are wrong `BadMagic` is reported. -/
theorem receiveFrame_of_badMagic {s : State} {W : Frame} (h : memRead W 0 2 ≠ s.cfg.magic.list) (iv : Iv) :
    receiveFrame s W iv = failed .badMagic [] := by
  rcases receiveFrame_cases s W iv with ⟨-, hraise⟩ | ⟨hmagic, -⟩ | ⟨hmagic, -⟩
  · exact hraise
  · exact absurd hmagic h
  · exact absurd hmagic h

theorem receiveFrame_of_badCrc {s : State} {W : Frame} (hmagic : memRead W 0 2 = s.cfg.magic.list)
    (hcrc : storedCrc s.cfg (plainFrame s.cfg s.key W) ≠ crcOf s.cfg (plainFrame s.cfg s.key W)) (iv : Iv) :
    receiveFrame s W iv =
      failed (.badCrc (storedCrc s.cfg (plainFrame s.cfg s.key W)) (crcOf s.cfg (plainFrame s.cfg s.key W))) [] := by
  rcases receiveFrame_cases s W iv with ⟨hbad, -⟩ | ⟨-, -, hraise⟩ | ⟨-, hgood, -⟩
  · exact absurd hmagic hbad
  · exact hraise
  · exact absurd hgood hcrc

/-- A block that passes both checks goes to the dispatcher under the layout in force. -/
theorem receiveFrame_of_checked {s : State} {W : Frame} (hmagic : memRead W 0 2 = s.cfg.magic.list)
    (hcrc : storedCrc s.cfg (plainFrame s.cfg s.key W) = crcOf s.cfg (plainFrame s.cfg s.key W)) (iv : Iv) :
    receiveFrame s W iv = dispatchFrame s (layoutInForce s.key) (plainFrame s.cfg s.key W) iv := by
  rcases receiveFrame_cases s W iv with ⟨hbad, -⟩ | ⟨-, hbad, -⟩ | ⟨-, -, hdispatch⟩
  · exact absurd hmagic hbad
  · exact absurd hcrc hbad
  · exact hdispatch

/-- Settles O37: the frame checked and dispatched is the plaintext of the block. -/
theorem rxFrameChecksThenDispatches : Obligations.RxFrameChecksThenDispatches := by
  intro s W B iv hplain
  cases eq_plainFrame hplain
  have hanswers := rxFrame_answers s W iv
  refine ⟨fun hmagic => ?badMagic, fun hmagic hcrc => ?badCrc, fun hmagic hcrc => ?checked⟩
  case badMagic => rwa [receiveFrame_of_badMagic hmagic] at hanswers
  case badCrc => rwa [receiveFrame_of_badCrc hmagic hcrc] at hanswers
  case checked =>
    rw [receiveFrame_of_checked hmagic hcrc] at hanswers
    exact ⟨_, dispatch_answers s _ _ iv, hanswers⟩

/-! ## The transmit path (R161, R162) -/

theorem wireFrame_of_absent {key : KeyReg} (h : key.valid = false) (cfg : Config) (B : Frame) :
    wireFrame cfg key B = crcGenFrame cfg B := by
  simp [wireFrame, h]

theorem wireFrame_of_present {key : KeyReg} (h : key.valid = true) (cfg : Config) (B : Frame) :
    wireFrame cfg key B = encryptFrame cfg key.bytes (crcGenFrame cfg B) := by
  simp [wireFrame, h]

/-- A message that fits is built. -/
theorem frameBuild_answers_of_fits {L : Layout} {msg : List Byte} (h : msg.length ≤ cap L) (s : State) (src dst proto : Byte)
    (iv : Iv) : Answers (.frameBuild L src dst proto msg iv) s (okay (.frame (shapeFrame s.cfg L src dst proto msg iv)) []) := by
  have hanswers := frameBuild_answers s L src dst proto msg iv
  rcases buildFrame_cases s.cfg L src dst proto msg iv with ⟨-, hok⟩ | ⟨hlong, -⟩
  · rwa [hok] at hanswers
  · exact absurd h (Nat.not_le_of_lt hlong)

/-- `TX_FRAME` answers with the transmit path's response. -/
theorem txFrame_answers (s : State) (src dst proto : Byte) (msg : List Byte) (iv : Iv) :
    Answers (.txFrame src dst proto msg iv) s (transmit s src dst proto msg iv) := rfl

/-- A message that fits is sent, in one frame. -/
theorem txFrame_answers_of_fits {s : State} {msg : List Byte} (h : msg.length ≤ cap (layoutInForce s.key))
    (src dst proto : Byte) (iv : Iv) : Answers (.txFrame src dst proto msg iv) s (okay .none
      [.send (wireFrame s.cfg s.key (shapeFrame s.cfg (layoutInForce s.key) src dst proto msg iv))]) := by
  have hanswers := txFrame_answers s src dst proto msg iv
  rcases transmit_cases s src dst proto msg iv with ⟨-, hsend⟩ | ⟨hlong, -⟩
  · rwa [hsend] at hanswers
  · exact absurd h (Nat.not_le_of_lt hlong)

/-- A message that does not fit is refused, and nothing is sent. -/
theorem txFrame_answers_of_long {s : State} {msg : List Byte} (h : cap (layoutInForce s.key) < msg.length)
    (src dst proto : Byte) (iv : Iv) :
    Answers (.txFrame src dst proto msg iv) s (failed (.payloadTooLarge msg.length) []) := by
  have hanswers := txFrame_answers s src dst proto msg iv
  rcases transmit_cases s src dst proto msg iv with ⟨hfits, -⟩ | ⟨-, hrefuse⟩
  · exact absurd h (Nat.not_lt_of_le hfits)
  · rwa [hrefuse] at hanswers

/-- Settles O38: the frame sent is what the three operations make of the message one after the other. -/
theorem txFrameBuildsSumsEncryptsSends : Obligations.TxFrameBuildsSumsEncryptsSends := by
  intro s L src dst proto msg iv hL
  rw [← layoutInForce_eq_ite] at hL
  subst hL
  refine ⟨fun hfits => ⟨_, _, _, frameBuild_answers_of_fits hfits s src dst proto iv, crcGen_answers s _,
    txFrame_answers_of_fits hfits src dst proto iv, fun hkey => ?_, fun hkey => wireFrame_of_absent hkey s.cfg _⟩,
    fun hlong => txFrame_answers_of_long hlong src dst proto iv⟩
  rw [wireFrame_of_present hkey]
  exact encrypt_answers_of_present hkey _

/-! ## From one node to another (R163) -/

/-- R119 (d): of the configuration, `DECRYPT` uses the key size alone. -/
theorem decryptFrame_congr {cfg cfg' : Config} (h : cfg'.keySize = cfg.keySize) (K : List Byte) (C : Frame) :
    decryptFrame cfg' K C = decryptFrame cfg K C := by
  rw [decryptFrame, decryptFrame, h]

/-- The receiver's plaintext of a transmitted frame is the built frame with its CRC, by R119 (a). -/
theorem plainFrame_wireFrame {cfg cfg' : Config} (h : cfg'.keySize = cfg.keySize) (key : KeyReg) (B : Frame) :
    plainFrame cfg' key (wireFrame cfg key B) = crcGenFrame cfg B := by
  cases hkey : key.valid with
  | false => rw [wireFrame_of_absent hkey, plainFrame_of_absent hkey]
  | true => rw [wireFrame_of_present hkey, plainFrame_of_present hkey, decryptFrame_congr h, decryptFrame_encryptFrame]

/-- Nodes with the same CRC parameters compute the same CRC. -/
theorem crcOf_congr_cfg {cfg cfg' : Config} (h : cfg'.crc = cfg.crc) (B : Frame) : crcOf cfg' B = crcOf cfg B := by
  rw [crcOf, crcOf, h]

/-- Nodes with the same field order read the same trailer. -/
theorem storedCrc_congr_cfg {cfg cfg' : Config} (h : cfg'.crcOrder = cfg.crcOrder) (B : Frame) :
    storedCrc cfg' B = storedCrc cfg B := by
  rw [storedCrc, storedCrc, h]

/-- A frame summed at one node passes the CRC check at another. -/
theorem storedCrc_eq_crcOf_of_crcGen {cfg cfg' : Config} (hcrc : cfg'.crc = cfg.crc) (horder : cfg'.crcOrder = cfg.crcOrder)
    (B : Frame) : storedCrc cfg' (crcGenFrame cfg B) = crcOf cfg' (crcGenFrame cfg B) := by
  rw [storedCrc_congr_cfg horder, crcOf_congr_cfg hcrc, storedCrc_crcGenFrame, crcOf_crcGenFrame]

/-- `CRC_GEN` leaves every field but the trailer alone. -/
theorem memRead_crcGenFrame (cfg : Config) (B : Frame) {o n : Nat} (h : o + n ≤ 208) :
    memRead (crcGenFrame cfg B) o n = memRead B o n :=
  memRead_congr fun _ _ => at_crcGenFrame cfg B (by omega)

theorem off_lt_trailer {f : Field} (h : f ≠ .crc) (L : Layout) : off L f < 208 := by
  cases f with
  | crc => exact absurd rfl h
  | _ => cases L <;> decide

theorem fldByte_crcGenFrame (cfg : Config) (B : Frame) (L : Layout) {f : Field} (h : f ≠ .crc) :
    fldByte (crcGenFrame cfg B) L f = fldByte B L f := at_crcGenFrame cfg B (off_lt_trailer h L)

/-- The receive path of a node in the same key state, on a transmitted frame: the dispatcher gets the built frame with its
CRC. -/
theorem receiveFrame_wireFrame {s t : State} (hkey : t.key = s.key) (hmagic : t.cfg.magic = s.cfg.magic)
    (hcrc : t.cfg.crc = s.cfg.crc) (horder : t.cfg.crcOrder = s.cfg.crcOrder) (hsize : t.cfg.keySize = s.cfg.keySize)
    (L : Layout) (src dst proto : Byte) (msg : List Byte) (iv iv2 : Iv) :
    receiveFrame t (wireFrame s.cfg s.key (shapeFrame s.cfg L src dst proto msg iv)) iv2 =
      dispatchFrame t (layoutInForce s.key) (crcGenFrame s.cfg (shapeFrame s.cfg L src dst proto msg iv)) iv2 := by
  have hplain := plainFrame_wireFrame hsize s.key (shapeFrame s.cfg L src dst proto msg iv)
  rw [receiveFrame_of_checked, hkey, hplain]
  · rw [memRead_wireFrame_magic, hmagic]
  · rw [hkey, hplain]
    exact storedCrc_eq_crcOf_of_crcGen hcrc horder _

/-- Settles O41: the dispatcher gets the built frame, whose fields `CRC_GEN` leaves alone. -/
theorem transmittedFrameIsReceived : Obligations.TransmittedFrameIsReceived := by
  intro s t src dst proto msg iv iv2 L hkey hmagic hcrc horder hsize hL hfits
  rw [← layoutInForce_eq_ite] at hL
  subst hL
  have hreceived := rxFrame_answers t
    (wireFrame s.cfg s.key (shapeFrame s.cfg (layoutInForce s.key) src dst proto msg iv)) iv2
  rw [receiveFrame_wireFrame hkey hmagic hcrc horder hsize] at hreceived
  refine ⟨_, _, _, txFrame_answers_of_fits hfits src dst proto iv, dispatch_answers .., hreceived, ?source, ?destination,
    ?protocol, ?length, ?message⟩
  case source => exact (fldByte_crcGenFrame _ _ _ (by decide)).trans (at_shapeFrame_source ..)
  case destination => exact (fldByte_crcGenFrame _ _ _ (by decide)).trans (at_shapeFrame_destination ..)
  case protocol => rw [fldByte_crcGenFrame _ _ _ (by decide), fldByte_shapeFrame_protocol]
  case length => rw [fldByte_crcGenFrame _ _ _ (by decide), fldByte_shapeFrame_length, toNat_ofNat_of_le_cap hfits]
  case message =>
    have hend := (padding_payload_adjacent (layoutInForce s.key)).2
    rw [memRead_crcGenFrame _ _ (by omega), memRead_shapeFrame_payload (h := hfits)]

end Sys2Proof.Machine
end

section
/-! SUPPORT. The sub-protocol family (44_subprotocols.md): the send operations as transmissions, the range and the sign of the
round-trip time, and a Ping Packet from one node to another and back. -/

namespace Sys2Proof.Machine

/-! ## The send operations (R170, R171, R173) -/

/-- R170: `SHOUT` is a transmission of a Chat frame from this node to everyone. -/
theorem shout_answers_iff {s : State} {msg : List Byte} {iv : Iv} {r : Response} :
    Answers (.shout msg iv) s r ↔ Answers (.txFrame s.cfg.nodeAddr 0xFF#8 2#8 msg iv) s r := Iff.rfl

/-- R171: `TELL` is the same to one node. -/
theorem tell_answers_iff {s : State} {msg : List Byte} {dst : Byte} {iv : Iv} {r : Response} :
    Answers (.tell msg dst iv) s r ↔ Answers (.txFrame s.cfg.nodeAddr dst 2#8 msg iv) s r := Iff.rfl

/-- R173: `PING_SEND` is a transmission of a packet stamped with `NOW`, the other stamp unset. -/
theorem pingSend_answers_iff {s : State} {target : Byte} {iv : Iv} {r : Response} :
    Answers (.pingSend target iv) s r ↔
      Answers (.txFrame s.cfg.nodeAddr target 3#8 (pingPack s.now unsetTime s.cfg.nodeAddr) iv) s r := Iff.rfl

/-- Settles O39: both are transmissions, which send a message that fits and refuse one that does not. -/
theorem shoutAndTellTransmitChat : Obligations.ShoutAndTellTransmitChat := by
  intro s L msg dst iv hL
  rw [← layoutInForce_eq_ite] at hL
  subst hL
  refine ⟨fun hfits => ?sent, fun hlong => ?refused⟩
  case sent =>
    have hshout := txFrame_answers_of_fits hfits s.cfg.nodeAddr 0xFF#8 2#8 iv
    have htell := txFrame_answers_of_fits hfits s.cfg.nodeAddr dst 2#8 iv
    exact ⟨⟨_, hshout, shout_answers_iff.2 hshout⟩, ⟨_, htell, tell_answers_iff.2 htell⟩⟩
  case refused =>
    exact ⟨shout_answers_iff.2 (txFrame_answers_of_long hlong ..), tell_answers_iff.2 (txFrame_answers_of_long hlong ..)⟩

/-- A Ping Packet fits under the layout in force, so it is always sent. -/
theorem txFrame_answers_pingPack (s : State) (src dst proto : Byte) (out back : TimeValue) (origin : Byte) (iv : Iv) :
    ∃ W : Frame, Answers (.txFrame src dst proto (pingPack out back origin) iv) s (okay .none [.send W]) :=
  ⟨_, txFrame_answers_of_fits (msg := pingPack out back origin) (pingPacketSize_le_cap _) src dst proto iv⟩

/-- Settles O40: an unset stamp is five zero bytes, and the packet fits. -/
theorem pingSendTransmitsProbe : Obligations.PingSendTransmitsProbe := by
  intro s target iv
  obtain ⟨W, hsent⟩ := txFrame_answers_pingPack s s.cfg.nodeAddr target 3#8 s.now unsetTime s.cfg.nodeAddr iv
  exact ⟨W, hsent, pingSend_answers_iff.2 hsent⟩

/-! ## The round-trip time (R176, R178) -/

/-- The parts of two time values differ by at most 255, which is less than 997 ms. -/
theorem natAbs_tdiv_parts_le (p q : Byte) : (Int.tdiv (((q.toNat : Int) - p.toNat) * 1000) 256).natAbs ≤ 996 := by
  have hp := p.isLt
  have hq := q.isLt
  have hquotient : (Int.tdiv (((q.toNat : Int) - p.toNat) * 1000) 256).natAbs =
      (((q.toNat : Int) - p.toNat) * 1000).natAbs / 256 := Int.natAbs_tdiv ..
  omega

/-- Settles O43: the seconds contribute at most 4294967295000 ms either way, the parts at most 996. -/
theorem roundTripTimeFormula : Obligations.RoundTripTimeFormula := by
  intro out back
  have hparts := natAbs_tdiv_parts_le out.parts back.parts
  have hout := out.seconds.isLt
  have hback := back.seconds.isLt
  refine ⟨rttMs_eq_latency out back, ?lower, ?upper⟩
  all_goals
    rw [rttMs_eq_latency, latency]
    omega

/-- Settles O44: a whole second more outweighs any difference of the parts; within a second the parts decide. -/
theorem roundTripTimeNonnegative : Obligations.RoundTripTimeNonnegative := by
  intro out back hle
  rw [rttMs_eq_latency, latency]
  rcases hle with hseconds | ⟨hseconds, hparts⟩
  · rw [BitVec.lt_def] at hseconds
    have hsmall := natAbs_tdiv_parts_le out.parts back.parts
    omega
  · rw [BitVec.le_def] at hparts
    have hnonneg : 0 ≤ Int.tdiv (((back.parts.toNat : Int) - out.parts.toNat) * 1000) 256 :=
      Int.tdiv_nonneg (by omega) (by decide)
    rw [hseconds]
    omega

/-! ## Ping Packets (R68, R174, R177) -/

/-- R177: a packed time value unpacks to itself. -/
theorem timeUnpack_timePack (t : TimeValue) : timeUnpack (timePack t) = t := by
  have hseconds : le32 (timePack t) = t.seconds := le32_toLe32 t.seconds
  rw [timeUnpack, hseconds]
  rfl

theorem pingOut_pingPack (out back : TimeValue) (origin : Byte) : pingOut (pingPack out back origin) = out :=
  timeUnpack_timePack out

theorem pingBack_pingPack (out back : TimeValue) (origin : Byte) : pingBack (pingPack out back origin) = back :=
  timeUnpack_timePack back

/-- R68: `origin` is the packet's last byte. -/
theorem pingOrigin_eq_byteAt (L : Layout) (B : Frame) : pingOrigin L B = byteAt (pingPacket L B) 10 := by
  rw [pingPacket, byteAt_memRead, if_pos (by decide), pingOrigin]

section
variable {L : Layout} {B : Frame} {out back : TimeValue} {origin : Byte} (hpacket : pingPacket L B = pingPack out back origin)
include hpacket

theorem pingOrigin_of_pingPacket : pingOrigin L B = origin := by
  rw [pingOrigin_eq_byteAt, hpacket]
  rfl

/-- R174: the response is the probe with its second stamp set. -/
theorem responsePacket_of_pingPacket (s : State) : responsePacket s L B = pingPack out s.now origin := by
  rw [responsePacket, hpacket]
  rfl

/-- R175: the report is the round-trip time of the packet's stamps. -/
theorem pingReport_of_pingPacket : pingReport L B = [.pingReport (rttMs out back)] := by
  rw [pingReport, hpacket, pingOut_pingPack, pingBack_pingPack]

end

/-! ## A Ping frame from one node to another (R155, R163) -/

/-- Two nodes understand each other's frames: equal `KEY`, `MAGIC`, CRC parameters and `KEY_SIZE`, as R163 asks. -/
structure State.SameNetwork (s t : State) : Prop where
  key : t.key = s.key
  magic : t.cfg.magic = s.cfg.magic
  crc : t.cfg.crc = s.cfg.crc
  crcOrder : t.cfg.crcOrder = s.cfg.crcOrder
  keySize : t.cfg.keySize = s.cfg.keySize

theorem State.SameNetwork.symm {s t : State} (h : s.SameNetwork t) : t.SameNetwork s :=
  ⟨h.key.symm, h.magic.symm, h.crc.symm, h.crcOrder.symm, h.keySize.symm⟩

theorem State.SameNetwork.of_cfg_eq {s t t' : State} (h : s.SameNetwork t) (hkey : t'.key = t.key) (hcfg : t'.cfg = t.cfg) :
    s.SameNetwork t' :=
  ⟨hkey.trans h.key, hcfg ▸ h.magic, hcfg ▸ h.crc, hcfg ▸ h.crcOrder, hcfg ▸ h.keySize⟩

section
variable {s t : State} {src dst : Byte} {out back : TimeValue} {origin : Byte} {iv : Iv} {W : Frame}
  (hnet : s.SameNetwork t) (hsent : Answers (.txFrame src dst 3#8 (pingPack out back origin) iv) s (okay .none [.send W]))
include hnet hsent

/-- The Ping handler of the receiver gets the sender's destination and packet, in a frame of good length. -/
theorem rxFrame_answers_routePing (iv2 : Iv) : ∃ (L : Layout) (B : Frame), Answers (.rxFrame W iv2) t (routePing t L B iv2) ∧
    fldByte B L .destination = dst ∧ (fldByte B L .length).toNat = 11 ∧ pingPacket L B = pingPack out back origin := by
  obtain ⟨V, B, r, htx, hdispatch, hrx, -, hdst, hproto, hlength, hpayload⟩ :=
    transmittedFrameIsReceived s t src dst 3#8 (pingPack out back origin) iv iv2 (layoutInForce s.key) hnet.key hnet.magic
      hnet.crc hnet.crcOrder hnet.keySize rfl (pingPacketSize_le_cap _)
  cases answers_unique hsent htx
  cases answers_unique hdispatch (dispatch_answers_of_eq (dispatchFrame_of_ping hproto t iv2))
  exact ⟨layoutInForce s.key, B, hrx, hdst, hlength, hpayload⟩

/-- R155: the receiver does what the class of the frame to it says. -/
theorem rxFrame_answers_pingEvents {cls : PingClass} (hcls : ∀ source, pingClass t.cfg.nodeAddr dst source origin = some cls)
    (iv2 : Iv) : ∃ (L : Layout) (B : Frame), pingPacket L B = pingPack out back origin ∧
      Answers (.rxFrame W iv2) t ⟨.ok, some .ping, .ping cls, pingEvents cls t L B iv2⟩ := by
  obtain ⟨L, B, hrx, hdst, hlength, hpacket⟩ := rxFrame_answers_routePing hnet hsent iv2
  have hsize : 11 ≤ cap L := pingPacketSize_le_cap L
  have hclass : pingClass t.cfg.nodeAddr (fldByte B L .destination) (fldByte B L .source) (pingOrigin L B) = some cls := by
    rw [hdst, pingOrigin_of_pingPacket hpacket]
    exact hcls _
  rw [routePing, pingRx_of_pingClass (by omega) (by omega) hclass] at hrx
  exact ⟨L, B, hpacket, hrx⟩

/-- R174: the node probed sends the packet back to its origin, stamped with its own clock. -/
theorem rxFrame_answers_probe (hdst : dst = t.cfg.nodeAddr) (horigin : origin ≠ t.cfg.nodeAddr) (iv2 : Iv) :
    ∃ R : Frame, Answers (.rxFrame W iv2) t ⟨.ok, some .ping, .ping .probeToUs, [.send R]⟩ ∧
      Answers (.txFrame t.cfg.nodeAddr origin 3#8 (pingPack out t.now origin) iv2) t (okay .none [.send R]) := by
  subst hdst
  obtain ⟨L, B, hpacket, hrx⟩ := rxFrame_answers_pingEvents hnet hsent (pingClass_probeToUs horigin) iv2
  obtain ⟨R, htx, hsend⟩ := pingRespond_sends t L B iv2
  rw [← responsePacket_eq, responsePacket_of_pingPacket hpacket, ← pingOrigin, pingOrigin_of_pingPacket hpacket] at htx
  rw [pingEvents, hsend] at hrx
  exact ⟨R, hrx, htx⟩

/-- R175: the node whose probe comes back reports the round-trip time of the two stamps. -/
theorem rxFrame_answers_response (hdst : dst = t.cfg.nodeAddr) (horigin : origin = t.cfg.nodeAddr) (iv2 : Iv) :
    Answers (.rxFrame W iv2) t ⟨.ok, some .ping, .ping .ownResponse, [.pingReport (rttMs out back)]⟩ := by
  subst hdst horigin
  obtain ⟨L, B, hpacket, hrx⟩ := rxFrame_answers_pingEvents hnet hsent (pingClass_ownResponse t.cfg.nodeAddr) iv2
  rwa [pingEvents, pingReport_of_pingPacket hpacket] at hrx

end

/-- Settles O42: the probe as A sends it, the response as B sends it, and A's report of that response, one after the other. -/
theorem pingExchangeReportsLatency : Obligations.PingExchangeReportsLatency := by
  intro a b a' iv1 iv2 iv3 hbkey hakey hacfg hmagic hcrc horder hsize haddr
  have hnet : a.SameNetwork b := ⟨hbkey, hmagic, hcrc, horder, hsize⟩
  have hnet' : b.SameNetwork a' := hnet.symm.of_cfg_eq hakey hacfg
  have haddr' : a.cfg.nodeAddr = a'.cfg.nodeAddr := by rw [hacfg]
  obtain ⟨V, hprobe⟩ := txFrame_answers_pingPack a a.cfg.nodeAddr b.cfg.nodeAddr 3#8 a.now unsetTime a.cfg.nodeAddr iv1
  obtain ⟨W, hanswered, hresponse⟩ := rxFrame_answers_probe hnet hprobe rfl haddr.symm iv2
  exact ⟨V, W, rttMs a.now b.now, pingSend_answers_iff.2 hprobe, hanswered,
    rxFrame_answers_response hnet' hresponse haddr' haddr' iv3, rttMs_eq_latency a.now b.now,
    roundTripTimeNonnegative a.now b.now⟩

end Sys2Proof.Machine
end

section
/-! SUPPORT. The remaining lines of the command surface (45_command_surface.md R190 to R194, R197, R198): the hexadecimal parsing
rule both ways, the lines that send, and the lines that only emit or do nothing. -/

namespace Sys2Proof.Machine

/-! ## Digits (R197) -/

theorem hexVal_lowerDigit : ∀ n < 16, hexVal (lowerDigit n) = some n := by decide

/-- The three ranges of `hexval` are the digits below ten, the upper-case letters and the lower-case letters. -/
theorem eq_digit_of_hexVal {c : Byte} {n : Nat} (h : hexVal c = some n) :
    n < 16 ∧ (c = upperDigit n ∨ c = lowerDigit n) := by
  unfold hexVal at h
  split_ifs at h with hdecimal hupper hlower <;> cases h
  · refine ⟨by omega, .inl (BitVec.eq_of_toNat_eq ?_)⟩
    rw [upperDigit, if_pos (by omega), BitVec.toNat_ofNat]
    omega
  · refine ⟨by omega, .inl (BitVec.eq_of_toNat_eq ?_)⟩
    rw [upperDigit, if_neg (by omega), BitVec.toNat_ofNat]
    omega
  · refine ⟨by omega, .inr (BitVec.eq_of_toNat_eq ?_)⟩
    rw [lowerDigit, if_neg (by omega), BitVec.toNat_ofNat]
    omega

/-! ## Tokens and byte strings (R197) -/

section
variable {a b : Byte} {x y : Nat}

theorem parseHexToken_of_digit (ha : hexVal a = some x) : parseHexToken [a] = some (BitVec.ofNat 8 x) := by
  simp only [parseHexToken, ha, Option.map_some]

theorem hexPair_of_digits (ha : hexVal a = some x) (hb : hexVal b = some y) :
    hexPair a b = some (BitVec.ofNat 8 (16 * x + y)) := by
  simp only [hexPair, ha, hb]

theorem parseHexBytes_pair (ha : hexVal a = some x) (hb : hexVal b = some y) :
    parseHexBytes [a, b] = some [BitVec.ofNat 8 (16 * x + y)] := by
  simp [parseHexBytes, hexPairs, hexPair_of_digits ha hb]

/-- A nonempty argument is read pair by pair. -/
theorem parseHexBytes_eq_some {tok bs : List Byte} (h : parseHexBytes tok = some bs) : hexPairs tok = some bs := by
  rw [parseHexBytes] at h
  split at h
  · cases h
  · exact h

theorem parseHexBytes_cons_cons (ha : hexVal a = some x) (hb : hexVal b = some y) {tok bs : List Byte}
    (h : parseHexBytes tok = some bs) : parseHexBytes (a :: b :: tok) = some (BitVec.ofNat 8 (16 * x + y) :: bs) := by
  simp [parseHexBytes, hexPairs, hexPair_of_digits ha hb, parseHexBytes_eq_some h]

end

/-- What `parse_hex_address_token` reads: one or two characters, every one a digit. -/
theorem parseHexToken_some {tok : List Byte} {v : Byte} (h : parseHexToken tok = some v) :
    (tok.length = 1 ∨ tok.length = 2) ∧ ∀ c ∈ tok, hexVal c ≠ none := by
  match tok, h with
  | [a], h =>
    obtain ⟨x, hx, -⟩ := Option.map_eq_some_iff.1 h
    simp [hx]
  | [a, b], h =>
    obtain ⟨ha, hb⟩ := hexVal_ne_none_of_hexPair h
    simp [ha, hb]

theorem parseHexToken_eq_none {tok : List Byte} (h : tok.length = 0 ∨ 2 < tok.length ∨ ∃ c ∈ tok, hexVal c = none) :
    parseHexToken tok = none := by
  cases hp : parseHexToken tok with
  | none => rfl
  | some v =>
    obtain ⟨hlength, hdigits⟩ := parseHexToken_some hp
    rcases h with hempty | hlong | ⟨c, hc, hbad⟩
    · omega
    · omega
    · exact absurd hbad (hdigits c hc)

/-- Settles O55: what each parser reads, from what it is made of and from what it gives. -/
theorem hexParsingRule : Obligations.HexParsingRule := by
  exact ⟨fun n hn => ⟨hexVal_upperDigit n hn, hexVal_lowerDigit n hn⟩, fun _ _ => eq_digit_of_hexVal,
    fun a b x y ha hb => ⟨parseHexToken_of_digit ha, hexPair_of_digits ha hb⟩, fun _ => parseHexToken_eq_none,
    fun _ _ => firstWord_append, fun _ => parseHexBytes_hexText,
    fun a b x y ha hb => ⟨parseHexBytes_pair ha hb, fun _ _ => parseHexBytes_cons_cons ha hb⟩,
    fun _ => parseHexBytes_eq_none⟩

/-! ## The class of a line (R190) -/

section
variable {junk : List Byte} (hjunk : junk = [] ∨ junk.head? = some space) (cfg : Config) (iv : Iv)
include hjunk

theorem parseLine_pingWord : parseLine cfg (pingWord ++ junk) iv = pingCommand junk iv := by
  have hspace : space ∉ pingWord := by decide
  have hne : pingWord ≠ [] := by decide
  simp only [parseLine, firstWord_append hspace hjunk, afterWord_append hspace hjunk, List.append_eq_nil_iff, hne, false_and,
    if_false, if_true]

theorem parseLine_helpWord : parseLine cfg (helpWord ++ junk) iv = .help := by
  have hspace : space ∉ helpWord := by decide
  have hne : helpWord ≠ [] := by decide
  have hping : helpWord ≠ pingWord := by decide
  simp only [parseLine, firstWord_append hspace hjunk, List.append_eq_nil_iff, hne, hping, false_and, if_false, if_true]

theorem parseLine_dateWord : parseLine cfg (dateWord ++ junk) iv = .date := by
  have hspace : space ∉ dateWord := by decide
  have hne : dateWord ≠ [] := by decide
  have hping : dateWord ≠ pingWord := by decide
  have hhelp : dateWord ≠ helpWord := by decide
  simp only [parseLine, firstWord_append hspace hjunk, List.append_eq_nil_iff, hne, hping, hhelp, false_and, if_false, if_true]

end

/-- A nonempty line that begins with no command word: its first byte decides between `TELL` and `SHOUT`. -/
theorem parseLine_of_noCommand {cfg : Config} {line : List Byte} (hne : line ≠ []) (hno : NoCommand cfg line) (iv : Iv) :
    parseLine cfg line iv = if line.headD 0#8 = atSign then tellCommand (line.drop 1) iv else .op (.shout line iv) := by
  simp only [NoCommand, fixedWords, List.mem_cons, List.not_mem_nil, or_false, not_or] at hno
  obtain ⟨hkey, hclear, hselftest, hping, hhelp, hdate⟩ := hno
  simp only [parseLine, hne, hkey, hclear, hselftest, hping, hhelp, hdate, if_false]

theorem parseLine_atSign {cfg : Config} {tail : List Byte} (hno : NoCommand cfg (atSign :: tail)) (iv : Iv) :
    parseLine cfg (atSign :: tail) iv = tellCommand tail iv := by
  rw [parseLine_of_noCommand (List.cons_ne_nil _ _) hno]
  rfl

theorem parseLine_shout {cfg : Config} {line : List Byte} (hne : line ≠ []) (hno : NoCommand cfg line)
    (hat : line.head? ≠ some atSign) (iv : Iv) : parseLine cfg line iv = .op (.shout line iv) := by
  have hhead : line.headD 0#8 ≠ atSign := by
    cases line with
    | nil => contradiction
    | cons b bs => simpa using hat
  rw [parseLine_of_noCommand hne hno, if_neg hhead]

/-! ## The arguments (R191, R192) -/

section
variable {tok : List Byte} (htok : space ∉ tok) (iv : Iv)
include htok

/-- `/ping` reads one token. -/
theorem pingCommand_of_parse {junk : List Byte} (hjunk : junk = [] ∨ junk.head? = some space) {a : Byte}
    (h : parseHexToken tok = some a) : pingCommand (space :: (tok ++ junk)) iv = .op (.pingSend a iv) := by
  simp only [pingCommand, firstWord_append htok hjunk, h]

theorem pingCommand_of_no_parse {junk : List Byte} (hjunk : junk = [] ∨ junk.head? = some space)
    (h : parseHexToken tok = none) : pingCommand (space :: (tok ++ junk)) iv = .malformed := by
  simp only [pingCommand, firstWord_append htok hjunk, h]

/-- Whether the first word of an `@` line is a command word does not depend on the message. -/
theorem noCommand_atSign_append {cfg : Config} (hno : NoCommand cfg (atSign :: tok)) (tail : List Byte) :
    NoCommand cfg (atSign :: (tok ++ space :: tail)) := by
  have hspace : space ∉ atSign :: tok := List.not_mem_cons_of_ne_of_not_mem (by decide) htok
  have hbare : firstWord (atSign :: tok) = atSign :: tok := by simpa using firstWord_append hspace (.inl rfl)
  have hword : firstWord (atSign :: (tok ++ space :: tail)) = atSign :: tok := firstWord_append hspace (.inr rfl)
  rwa [NoCommand, hword, ← hbare]

/-- An address without a space after it has no message. -/
theorem tellCommand_of_no_space : tellCommand tok iv = .malformed := by
  have hafter : afterWord tok = [] := by simpa using afterWord_append htok (.inl rfl)
  simp only [tellCommand, hafter]

theorem tellCommand_of_parse {tail : List Byte} (hne : tail ≠ []) {a : Byte} (h : parseHexToken tok = some a) :
    tellCommand (tok ++ space :: tail) iv = .op (.tell tail a iv) := by
  simp only [tellCommand, firstWord_append htok (junk := space :: tail) (.inr rfl),
    afterWord_append htok (junk := space :: tail) (.inr rfl), h, hne, if_false]

theorem tellCommand_of_bad {tail : List Byte} (h : parseHexToken tok = none ∨ tail = []) :
    tellCommand (tok ++ space :: tail) iv = .malformed := by
  simp only [tellCommand, firstWord_append htok (junk := space :: tail) (.inr rfl),
    afterWord_append htok (junk := space :: tail) (.inr rfl)]
  rcases h with hbad | hempty
  · simp only [hbad]
  · cases parseHexToken tok with
    | none => rfl
    | some a => exact if_pos hempty

end

/-! ## The send operations from a line (R191 to R193, R198) -/

section
variable {s : State} {now : TimeValue} {rest : List Request}

/-- An operation that answers `OK` is all that its line does. -/
theorem runCommand_of_okay {i : Instr} {v : Value} {evs : List Event} (h : Answers i s (okay v evs)) :
    runCommand (.op i) s = exec i s := runCommand_of_ok h rfl rfl

theorem runCommand_pingSend (target : Byte) (iv : Iv) :
    runCommand (.op (.pingSend target iv)) s = exec (.pingSend target iv) s := by
  obtain ⟨W, -, hanswers⟩ := pingSendTransmitsProbe s target iv
  exact runCommand_of_okay hanswers

theorem runCommand_shout_of_fits {msg : List Byte} (h : msg.length ≤ cap (layoutInForce s.key)) (iv : Iv) :
    runCommand (.op (.shout msg iv)) s = exec (.shout msg iv) s :=
  runCommand_of_okay (shout_answers_iff.2 (txFrame_answers_of_fits h ..))

theorem runCommand_tell_of_fits {msg : List Byte} (h : msg.length ≤ cap (layoutInForce s.key)) (dst : Byte) (iv : Iv) :
    runCommand (.op (.tell msg dst iv)) s = exec (.tell msg dst iv) s :=
  runCommand_of_okay (tell_answers_iff.2 (txFrame_answers_of_fits h ..))

theorem runCommand_shout_of_long {msg : List Byte} (h : cap (layoutInForce s.key) < msg.length) (iv : Iv) :
    runCommand (.op (.shout msg iv)) (s.serving now rest) = .next (s.complaining now rest (.payloadTooLarge msg.length)) :=
  runCommand_of_failed (shout_answers_iff.2 (txFrame_answers_of_long (s := s.serving now rest) h ..)) nofun

theorem runCommand_tell_of_long {msg : List Byte} (h : cap (layoutInForce s.key) < msg.length) (dst : Byte) (iv : Iv) :
    runCommand (.op (.tell msg dst iv)) (s.serving now rest) =
      .next (s.complaining now rest (.payloadTooLarge msg.length)) :=
  runCommand_of_failed (tell_answers_iff.2 (txFrame_answers_of_long (s := s.serving now rest) h ..)) nofun

end

/-! ## The lines that send -/

/-- Settles O56: the token after `/ping` is the address, or the line is malformed. -/
theorem pingLineSendsProbe : Obligations.PingLineSendsProbe := by
  intro s tok junk iv now rest htok hjunk
  refine ⟨fun h => ?withArgument, fun h => ?bare⟩
  case withArgument =>
    rw [step_of_line h, parseLine_pingWord (.inr rfl)]
    refine ⟨fun a hparse => ?_, fun hparse => ?_⟩
    · rw [pingCommand_of_parse htok iv hjunk hparse]
      exact runCommand_pingSend a iv
    · rw [pingCommand_of_no_parse htok iv hjunk hparse]
      exact runCommand_malformed s now rest
  case bare =>
    have hparse : parseLine s.cfg pingWord iv = pingCommand [] iv := by
      simpa using parseLine_pingWord (.inl rfl) s.cfg iv
    rw [step_of_line h, hparse]
    exact runCommand_malformed s now rest

/-- Settles O57: an `@` line is `TELL` of what follows the space, or it is malformed. -/
theorem tellLineSendsMessage : Obligations.TellLineSendsMessage := by
  intro s tok tail iv now rest htok hno
  refine ⟨fun h => ?withSpace, fun h => ?withoutSpace⟩
  case withSpace =>
    rw [step_of_line h, parseLine_atSign (noCommand_atSign_append htok hno tail)]
    refine ⟨fun a hparse hne hfits => ?_, fun a hparse hlong => ?_, fun hbad => ?_⟩
    · rw [tellCommand_of_parse htok iv hne hparse]
      exact runCommand_tell_of_fits (s := s.serving now rest) hfits a iv
    · have hne : tail ≠ [] := List.length_pos_iff.1 (Nat.zero_lt_of_lt hlong)
      rw [tellCommand_of_parse htok iv hne hparse]
      exact runCommand_tell_of_long hlong a iv
    · rw [tellCommand_of_bad htok iv hbad]
      exact runCommand_malformed s now rest
  case withoutSpace =>
    rw [step_of_line h, parseLine_atSign hno, tellCommand_of_no_space htok]
    exact runCommand_malformed s now rest

/-- Settles O58: a line of no other class is `SHOUT` of it. -/
theorem otherLineIsShouted : Obligations.OtherLineIsShouted := by
  intro s line iv now rest hne hno hat h
  rw [step_of_line h, parseLine_shout hne hno hat]
  exact ⟨fun hfits => runCommand_shout_of_fits (s := s.serving now rest) hfits iv,
    fun hlong => runCommand_shout_of_long hlong iv⟩

/-! ## The lines that only emit, and the empty line -/

/-- A line that asks for nothing changes nothing. -/
theorem runCommand_nothing (s : State) (now : TimeValue) (rest : List Request) :
    runCommand .nothing (s.serving now rest) = .next (s.after now rest none []) := by
  simp [runCommand, State.noReply, State.returnIdle, State.serving, State.after]

/-- Settles O59: both words are apart from the words looked for before them, and their command is one event. -/
theorem helpDateAndEmptyLines : Obligations.HelpDateAndEmptyLines := by
  intro s junk iv now rest hjunk
  refine ⟨fun h => ?help, fun h => ?date, fun h => ?empty⟩
  case help =>
    rw [step_of_line h, parseLine_helpWord hjunk]
    rfl
  case date =>
    rw [step_of_line h, parseLine_dateWord hjunk]
    rfl
  case empty =>
    rw [step_of_line h]
    exact runCommand_nothing s now rest

end Sys2Proof.Machine
end

section
/-! SUPPORT. The exceptions family (60_exceptions.md): the statuses an operation returns, what a failed one leaves behind, who
sends, that everything completes, and the receive event. -/

namespace Sys2Proof.Machine

/-! ## Conforming responses (R202, R206) -/

/-- A response keeps a row of R202's table, given as the statuses it marks, and R206: with a status other than `OK` it carries
no value, and no event but the diagnostic of `MalformedFrame`. -/
structure Response.Conforms (allowed : StatusKind → Bool) (r : Response) : Prop where
  status : allowed r.status.kind = true
  failure : r.status ≠ .ok → r.value = .none ∧ (r.events = [] ∨ r.events = [.diagnostic .malformedFrame])

section
variable {allowed : StatusKind → Bool}

theorem returns_conforms (h : allowed .ok = true) (v : Value) (evs : List Event) :
    (Response.returns v evs).Conforms allowed := ⟨h, fun hne => absurd rfl hne⟩

theorem raises_conforms {st : Status} (h : allowed st.kind = true) : (Response.raises st []).Conforms allowed :=
  ⟨h, fun _ => ⟨rfl, .inl rfl⟩⟩

/-- R206: the diagnostic is emitted before `MalformedFrame` is raised, and stands. -/
theorem malformed_conforms (h : allowed .malformedFrame = true) (n : Byte) : (malformed n).Conforms allowed :=
  ⟨h, fun _ => ⟨rfl, .inr rfl⟩⟩

theorem Response.Conforms.routed {r : Response} (h : r.Conforms allowed) (rt : Route) : (r.routed rt).Conforms allowed :=
  ⟨h.status, h.failure⟩

/-- A row that marks more statuses. -/
theorem Response.Conforms.mono {allowed' : StatusKind → Bool} {r : Response} (h : r.Conforms allowed)
    (hmarks : ∀ k, allowed k = true → allowed' k = true) : r.Conforms allowed' := ⟨hmarks _ h.status, h.failure⟩

end

/-! ## The response of each operation -/

theorem frameBuild_conforms (cfg : Config) (L : Layout) (src dst proto : Byte) (msg : List Byte) (iv : Iv) :
    (frameResponse (buildFrame cfg L src dst proto msg iv)).Conforms (statusAllowed (.frameBuild L src dst proto msg iv)) := by
  rcases buildFrame_cases cfg L src dst proto msg iv with ⟨-, hok⟩ | ⟨-, hlong⟩
  · rw [hok]
    exact returns_conforms rfl _ _
  · rw [hlong]
    exact raises_conforms rfl

theorem frameValidate_conforms (L : Layout) (B : Frame) :
    (statusResponse (validateFrame L B)).Conforms (statusAllowed (.frameValidate L B)) := by
  rcases validateFrame_cases L B with ⟨-, hok⟩ | ⟨-, hlong⟩
  · rw [hok]
    exact returns_conforms rfl _ _
  · rw [hlong]
    exact raises_conforms rfl

theorem crcCheck_conforms (cfg : Config) (B : Frame) :
    (statusResponse (crcCheckFrame cfg B)).Conforms (statusAllowed (.crcCheck B)) := by
  rcases crcCheckFrame_cases cfg B with ⟨-, hok⟩ | ⟨-, hbad⟩
  · rw [hok]
    exact returns_conforms rfl _ _
  · rw [hbad]
    exact raises_conforms rfl

/-- R162: `TX_FRAME`, and `SHOUT` and `TELL`, whose rows are the same. -/
theorem transmit_conforms (s : State) (src dst proto : Byte) (msg : List Byte) (iv : Iv) :
    (transmit s src dst proto msg iv).Conforms (statusAllowed (.txFrame src dst proto msg iv)) := by
  rcases transmit_cases s src dst proto msg iv with ⟨-, hsend⟩ | ⟨-, hrefuse⟩
  · rw [hsend]
    exact returns_conforms rfl _ _
  · rw [hrefuse]
    exact raises_conforms rfl

theorem chatRx_conforms (cfg : Config) (L : Layout) (B : Frame) : (chatRx cfg L B).Conforms handlerStatus := by
  rcases chatRx_cases cfg L B with ⟨-, hmalformed⟩ | ⟨-, -, hother⟩ | ⟨cls, -, -, hrender⟩
  · rw [hmalformed]
    exact malformed_conforms rfl _
  · rw [hother]
    exact raises_conforms rfl
  · rw [hrender]
    exact returns_conforms rfl _ _

theorem pingRx_conforms (s : State) (L : Layout) (B : Frame) (iv : Iv) : (pingRx s L B iv).Conforms handlerStatus := by
  rcases pingRx_cases s L B iv with ⟨-, hmalformed⟩ | ⟨-, ⟨-, hother⟩ | ⟨-, hprobe⟩ | ⟨-, hown⟩⟩
  · rw [hmalformed]
    exact malformed_conforms rfl _
  · rw [hother]
    exact raises_conforms rfl
  · rw [hprobe]
    exact returns_conforms rfl _ _
  · rw [hown]
    exact returns_conforms rfl _ _

/-- R157. -/
theorem routeTime_conforms {allowed : StatusKind → Bool} (h : allowed .ok = true) : routeTime.Conforms allowed :=
  (returns_conforms h _ _).routed _

/-- R150: a dropped frame is `UnknownProtocol`. -/
theorem routeDropped_conforms {allowed : StatusKind → Bool} (h : allowed .unknownProtocol = true) :
    routeDropped.Conforms allowed := (raises_conforms h).routed _

/-- R202: the row of `DISPATCH` is the handlers' with `UnknownProtocol`. -/
theorem dispatchFrame_conforms (s : State) (L : Layout) (B : Frame) (iv : Iv) :
    (dispatchFrame s L B iv).Conforms (statusAllowed (.dispatch L B iv)) := by
  have hhandlers : ∀ k, handlerStatus k = true → statusAllowed (.dispatch L B iv) k = true := fun k hk => by
    simp [statusAllowed, hk]
  rcases dispatchFrame_cases s L B iv with ⟨-, hchat⟩ | ⟨-, hping⟩ | ⟨-, htime⟩ | ⟨-, -, -, hdropped⟩
  · rw [hchat]
    exact ((chatRx_conforms s.cfg L B).routed _).mono hhandlers
  · rw [hping]
    exact ((pingRx_conforms s L B iv).routed _).mono hhandlers
  · rw [htime]
    exact routeTime_conforms rfl
  · rw [hdropped]
    exact routeDropped_conforms rfl

/-- R202: the row of `RX_FRAME` is that of `DISPATCH` with the two checks. -/
theorem receiveFrame_conforms (s : State) (W : Frame) (iv : Iv) :
    (receiveFrame s W iv).Conforms (statusAllowed (.rxFrame W iv)) := by
  rcases receiveFrame_cases s W iv with ⟨-, hmagic⟩ | ⟨-, -, hcrc⟩ | ⟨-, -, hdispatch⟩
  · rw [hmagic]
    exact raises_conforms rfl
  · rw [hcrc]
    exact raises_conforms rfl
  · rw [hdispatch]
    refine (dispatchFrame_conforms s _ _ iv).mono fun k hk => ?_
    simp only [statusAllowed] at hk
    simp [statusAllowed, hk]

/-- A row of the protocol-id map marks what `DISPATCH` returns for its class. -/
theorem classResponse_conforms (c : ProtoClass) (s : State) (L : Layout) (B : Frame) (iv : Iv) :
    (classResponse c s L B iv).Conforms (statusAllowed (protoInstr L c B iv)) := by
  cases c with
  | chat => cases L <;> exact (chatRx_conforms s.cfg _ B).routed _
  | ping => cases L <;> exact (pingRx_conforms s _ B iv).routed _
  | time => cases L <;> exact routeTime_conforms rfl
  | _ => cases L <;> exact routeDropped_conforms rfl

/-! ## Every instruction completes (R206, R208) -/

/-- An instruction completes with a response of its row of R202's table; when it fails, `KEY` is as before. -/
def CompletesInRow (i : Instr) (s : State) : Prop :=
  ∃ (key : KeyReg) (r : Response), AnswersWritingKey i s key r ∧ r.Conforms (statusAllowed i) ∧ (r.status ≠ .ok → key = s.key)

theorem completesInRow_of_answers {i : Instr} {s : State} {r : Response} (h : Answers i s r)
    (hr : r.Conforms (statusAllowed i)) : CompletesInRow i s := ⟨s.key, r, h, hr, fun _ => rfl⟩

/-- A register written goes with `OK`. -/
theorem completesInRow_of_writingKey {i : Instr} {s : State} {key : KeyReg} (h : AnswersWritingKey i s key (okay .none []))
    (hok : statusAllowed i .ok = true) : CompletesInRow i s :=
  ⟨key, _, h, returns_conforms hok _ _, fun hne => absurd rfl hne⟩

/-- R110: a literal is set or refused. -/
theorem keySetLiteral_completesInRow (lit : List Byte) (s : State) : CompletesInRow (.keySetLiteral lit) s := by
  rcases literalKey_cases s.cfg.keySize lit with ⟨hpos, hfits, -⟩ | ⟨hbad, -⟩
  · exact completesInRow_of_writingKey (keySetLiteral_answers_of_fits hpos hfits) rfl
  · exact completesInRow_of_answers (keySetLiteral_answers_of_not_fits hbad) (raises_conforms rfl)

/-- R111: an index does what the stored literal does, in a row of the same statuses, or is refused. -/
theorem keySetIndex_completesInRow (idx : Byte) (s : State) : CompletesInRow (.keySetIndex idx) s := by
  rcases Nat.lt_or_ge idx.toNat 2 with hsmall | hlarge
  · obtain ⟨key, r, hanswers, hconforms, hkey⟩ := keySetLiteral_completesInRow (keystoreRecord s.cfg idx).bytes s
    exact ⟨key, r, (exec_keySetIndex_of_lt hsmall s).trans hanswers, hconforms, hkey⟩
  · exact completesInRow_of_answers (keySetIndex_answers_of_le hlarge s) (raises_conforms rfl)

/-- The operations that need a key answer `NoKey` without one; with one, `OK`, the self-test among them (R121 by R119). -/
theorem cipherOps_completeInRow (s : State) (B : Frame) :
    CompletesInRow (.encrypt B) s ∧ CompletesInRow (.decrypt B) s ∧ CompletesInRow .selftest s := by
  cases hkey : s.key.valid with
  | false =>
    obtain ⟨hencrypt, hdecrypt, hselftest⟩ := cipherOps_answer_noKey hkey B
    exact ⟨completesInRow_of_answers hencrypt (raises_conforms rfl), completesInRow_of_answers hdecrypt (raises_conforms rfl),
      completesInRow_of_answers hselftest (raises_conforms rfl)⟩
  | true =>
    exact ⟨completesInRow_of_answers (encrypt_answers_of_present hkey B) (returns_conforms rfl _ _),
      completesInRow_of_answers (decrypt_answers_of_present hkey B) (returns_conforms rfl _ _),
      completesInRow_of_answers (selftest_answers_of_present hkey) (returns_conforms rfl _ _)⟩

/-- R173: the packet of a probe fits, so `PING_SEND` has no status but `OK`. -/
theorem pingSend_completesInRow (target : Byte) (iv : Iv) (s : State) : CompletesInRow (.pingSend target iv) s := by
  obtain ⟨W, -, hanswers⟩ := pingSendTransmitsProbe s target iv
  exact completesInRow_of_answers hanswers (returns_conforms rfl _ _)

/-- R202, R206, R208 for every instruction and every state. -/
theorem exec_completesInRow (i : Instr) (s : State) : CompletesInRow i s := by
  rcases operation_or_protoInstr i with ⟨-, ws, hencode⟩ | ⟨L, c, B, iv, rfl⟩
  · cases i with
    | frameClear => exact completesInRow_of_answers (r := okay (.frame emptyFrame) []) rfl (returns_conforms rfl _ _)
    | frameBuild L src dst proto msg iv =>
      exact completesInRow_of_answers (frameBuild_answers s ..) (frameBuild_conforms s.cfg ..)
    | frameValidate L B => exact completesInRow_of_answers (frameValidate_answers s L B) (frameValidate_conforms L B)
    | crcGen B => exact completesInRow_of_answers (crcGen_answers s B) (returns_conforms rfl _ _)
    | crcCheck B => exact completesInRow_of_answers (crcCheck_answers s B) (crcCheck_conforms s.cfg B)
    | keySetLiteral lit => exact keySetLiteral_completesInRow lit s
    | keySetIndex idx => exact keySetIndex_completesInRow idx s
    | keyClear => exact completesInRow_of_writingKey (keyClear_answers s) rfl
    | encrypt P =>
      obtain ⟨hencrypt, -, -⟩ := cipherOps_completeInRow s P
      exact hencrypt
    | decrypt C =>
      obtain ⟨-, hdecrypt, -⟩ := cipherOps_completeInRow s C
      exact hdecrypt
    | selftest =>
      obtain ⟨-, -, hselftest⟩ := cipherOps_completeInRow s emptyFrame
      exact hselftest
    | dispatch L B iv => exact completesInRow_of_answers (dispatch_answers s L B iv) (dispatchFrame_conforms s L B iv)
    | chatRx L B => exact completesInRow_of_answers (chatRx_answers s L B) (chatRx_conforms s.cfg L B)
    | pingRx L B iv => exact completesInRow_of_answers (pingRx_answers s L B iv) (pingRx_conforms s L B iv)
    | rxFrame W iv => exact completesInRow_of_answers (rxFrame_answers s W iv) (receiveFrame_conforms s W iv)
    | txFrame src dst proto msg iv =>
      exact completesInRow_of_answers (txFrame_answers s src dst proto msg iv) (transmit_conforms s ..)
    | shout msg iv =>
      exact completesInRow_of_answers (shout_answers_iff.2 (txFrame_answers s ..)) (transmit_conforms s _ _ _ msg iv)
    | tell msg dst iv =>
      exact completesInRow_of_answers (tell_answers_iff.2 (txFrame_answers s ..)) (transmit_conforms s _ _ _ msg iv)
    | pingSend target iv => exact pingSend_completesInRow target iv s
    | _ => cases hencode
  · exact completesInRow_of_answers (protoInstr_answers s L c B iv) (classResponse_conforms c s L B iv)

/-- The response in the next state is the one the instruction completed with. -/
theorem exec_resp_conforms {i : Instr} {s t : State} {r : Response} (h : exec i s = .next t) (hr : t.resp = some r) :
    r.Conforms (statusAllowed i) ∧ (r.status ≠ .ok → t.key = s.key) := by
  obtain ⟨key, r', hanswers, hconforms, hkey⟩ := exec_completesInRow i s
  cases hanswers.symm.trans h
  cases hr
  exact ⟨hconforms, hkey⟩

/-- Settles O46. -/
theorem statusTableHolds : Obligations.StatusTableHolds := fun _ _ _ _ h hr =>
  (exec_resp_conforms h hr).1.status

/-- Settles O47. -/
theorem failedOperationProducesNothing : Obligations.FailedOperationProducesNothing := by
  intro i s t r h hr hfailed
  obtain ⟨hconforms, hkey⟩ := exec_resp_conforms h hr
  obtain ⟨hvalue, hevents⟩ := hconforms.failure hfailed
  exact ⟨hvalue, hkey hfailed, hevents⟩

/-! ## Who sends (R203) -/

/-- What an instruction emits are its response's events: without a `send`, or, from one that may send, those of a
transmission. -/
theorem exec_resp_sends {i : Instr} {s t : State} (h : exec i s = .next t) :
    ∃ r, t.resp = some r ∧ t.log = s.log ++ r.events ∧
      (sentFrames r.events = [] ∨ maySend i = true ∧ r.Transmits s) := by
  cases hi : mayWriteKey i with
  | false =>
    obtain ⟨r, hr, hsends⟩ := exec_eq_answer_sends hi s
    cases hr.symm.trans h
    exact ⟨r, rfl, rfl, hsends⟩
  | true =>
    obtain ⟨r, hr, -⟩ := exec_eq_writeKey_of_mayWriteKey hi s
    rcases writeKey_cases s r with ⟨key, -, hwrite⟩ | ⟨st, -, hraise⟩
    · cases (hr.trans hwrite).symm.trans h
      exact ⟨_, rfl, rfl, .inl rfl⟩
    · cases (hr.trans hraise).symm.trans h
      exact ⟨_, rfl, rfl, .inl rfl⟩

/-- Settles O48: a transmission is one `send`, from an instruction that may send, with `OK`. -/
theorem atMostOneSend : Obligations.AtMostOneSend := by
  intro i s t h
  obtain ⟨r, hresp, hlog, hsends⟩ := exec_resp_sends h
  refine ⟨r.events, hlog, ?_⟩
  rcases hsends with hsilent | ⟨hmay, hok, _, _, _, _, _, hevents⟩
  · rw [hsilent]
    exact ⟨Nat.zero_le 1, fun _ => rfl, fun _ _ _ => rfl⟩
  · refine ⟨by rw [hevents]; exact Nat.le_refl 1, fun hnot => ?_, fun r' hr' herror => ?_⟩
    · rw [hmay] at hnot
      cases hnot
    · cases hresp.symm.trans hr'
      rw [hok] at herror
      cases herror

/-! ## The receive event (R204, R232) -/

theorem serveReceive_of_registered {s : State} (h : s.callback = true) (W : Frame) (iv : Iv) :
    serveReceive W iv s = exec (.rxFrame W iv) s := by
  simp only [serveReceive, h, if_true]

theorem serveReceive_of_unregistered {s : State} (h : s.callback = false) (W : Frame) (iv : Iv) :
    serveReceive W iv s = .next s.noReply := by
  simp only [serveReceive, h, Bool.false_eq_true, if_false]

theorem serveRegister_of_registered {s : State} (h : s.callback = true) : serveRegister s = .refused .secondCallback := by
  simp only [serveRegister, h, if_true]

theorem serveRegister_of_unregistered {s : State} (h : s.callback = false) : serveRegister s = .next s.registered := by
  simp only [serveRegister, h, Bool.false_eq_true, if_false]

/-- A request that was no operation leaves its serving state as it is. -/
theorem noReply_serving (s : State) (now : TimeValue) (rest : List Request) :
    (s.serving now rest).noReply = s.after now rest none [] := by
  simp [State.noReply, State.returnIdle, State.serving, State.after]

theorem registered_serving (s : State) (now : TimeValue) (rest : List Request) :
    (s.serving now rest).registered = { s.after now rest none [] with callback := true } := by
  simp [State.registered, State.noReply, State.returnIdle, State.serving, State.after]

/-- Settles O54: each clause serves the request at the head by the callback's state. -/
theorem receiveEventRunsRxFrame : Obligations.ReceiveEventRunsRxFrame := by
  intro s now rest W iv
  have hreceive (h : s.inbox = ⟨.receive W iv, now⟩ :: rest) : step s = serveReceive W iv (s.serving now rest) :=
    step_of_inbox_cons h
  have hregister (h : s.inbox = ⟨.registerCallback, now⟩ :: rest) : step s = serveRegister (s.serving now rest) :=
    step_of_inbox_cons h
  refine ⟨fun h hcallback => ?received, fun h hcallback => ?lost, fun h hcallback => ?registers, fun h hcallback => ?refused⟩
  case received => rw [hreceive h, serveReceive_of_registered (s := s.serving now rest) hcallback]
  case lost => rw [hreceive h, serveReceive_of_unregistered (s := s.serving now rest) hcallback, noReply_serving]
  case registers => rw [hregister h, serveRegister_of_unregistered (s := s.serving now rest) hcallback, registered_serving]
  case refused => rw [hregister h, serveRegister_of_registered (s := s.serving now rest) hcallback]

/-! ## Totality (R208) -/

/-- An instruction answers a next state, before the same requests. -/
theorem exec_total (i : Instr) (s : State) : ∃ t, exec i s = .next t ∧ t.inbox = s.inbox := by
  obtain ⟨key, r, hanswers, -, -⟩ := exec_completesInRow i s
  exact ⟨_, hanswers, rfl⟩

/-- So does every command of a line, its status reported or not. -/
theorem runCommand_total (c : Command) (s : State) : ∃ t, runCommand c s = .next t ∧ t.inbox = s.inbox := by
  cases c with
  | op i =>
    obtain ⟨u, hexec, hinbox⟩ := exec_total i s
    exact ⟨u.reported, by rw [runCommand, hexec, reportOutcome], (reported_inbox u).trans hinbox⟩
  | nothing => exact ⟨s.noReply, rfl, rfl⟩
  | help => exact ⟨s.deliver helpResponse, rfl, rfl⟩
  | date => exact ⟨s.deliver (dateResponse s), rfl, rfl⟩
  | malformed => exact ⟨s.deliver surfaceError, rfl, rfl⟩

/-- Settles O45: a received frame is `RX_FRAME` or lost, and a line is parsed to some command. -/
theorem everyOperationCompletes : Obligations.EveryOperationCompletes := by
  refine ⟨fun i s => ?instruction, fun s W iv now rest h => ?frame, fun s text iv now rest h => ?line⟩
  case instruction =>
    obtain ⟨key, r, hanswers, -, -⟩ := exec_completesInRow i s
    exact ⟨r, key, hanswers⟩
  case frame =>
    obtain ⟨hreceived, hlost, -, -⟩ := receiveEventRunsRxFrame s now rest W iv
    cases hcallback : s.callback with
    | true =>
      rw [hreceived h hcallback]
      exact ⟨_, rxFrame_answers (s.serving now rest) W iv, rfl, rfl⟩
    | false =>
      rw [hlost h hcallback]
      exact ⟨_, rfl, rfl, rfl⟩
  case line =>
    rw [step_of_line h]
    exact runCommand_total _ (s.serving now rest)

end Sys2Proof.Machine
end

section
/-! SUPPORT. The reset family (70_reset_and_hazards.md): the reset transition as a step. -/

namespace Sys2Proof.Machine

/-- The state after a power-up request (R230, R231), and its ports (log entry 1). -/
theorem powerUp_serving (s : State) (now : TimeValue) (rest : List Request) :
    (s.serving now rest).powerUp =
      { s.after now rest none [] with key := KeyReg.absent s.cfg.keySize, callback := false } := by
  simp [State.powerUp, State.serving, State.after]

/-- Settles O53: a power-up request is served by the reset transition. -/
theorem powerUpResetsBlock : Obligations.PowerUpResetsBlock := by
  intro s now rest h
  calc step s = .next (s.serving now rest).powerUp := step_of_inbox_cons h
    _ = .next { s.after now rest none [] with key := KeyReg.absent s.cfg.keySize, callback := false } := by
      rw [powerUp_serving]

end Sys2Proof.Machine
end
